-- ==== Sys2Proof/Word.lean ====
section
/-! DEFINITION. The words of the block: the command word (rule R91), its fields, and the element types of the
buffers (rules R29, R30, R38, R39, R42). A floating-point value is its IEEE 754 bit pattern (rule R9). -/

namespace Sys2Proof

/-- A command word (R90). -/
abbrev Word := BitVec 64

/-- A callback identifier; 0 is "null" (R91). -/
abbrev Cb := BitVec 12

/-- An opaque context (R28). -/
abbrev Ctx := BitVec 32

/-- `int16`, two's complement (R9). -/
abbrev I16 := BitVec 16

/-- `int32`, two's complement (R9). -/
abbrev I32 := BitVec 32

/-- The bit pattern of an IEEE 754 binary32 value (R9). -/
abbrev F32 := BitVec 32

/-- The bit pattern of an IEEE 754 binary64 value (R9). -/
abbrev F64 := BitVec 64

/-- A value of `NOW`, a deadline or a latch, `uint64` (R31, R150). -/
abbrev Time := BitVec 64

end Sys2Proof
end

