-- ==== Sys2Proof/Syntax.lean ====
section
/-! DEFINITION. The operations of the block (rule R3): one constructor per row of the opcode table, the twelve
encoded commands and the six internal, environment and worker steps. -/

namespace Sys2Proof

/-- The three timer-driven streams (R13, R92). -/
inductive Stream where
  | effects
  | music
  | wavetable
deriving DecidableEq, Repr

/-- The four sink and filter kinds (R14, R92). -/
inductive Kind where
  | effects
  | music
  | wavetable
  | cd
deriving DecidableEq, Repr

/-- The output format (R24, R92). -/
inductive Fmt where
  | int16
  | float
deriving DecidableEq, Repr

/-- One thing per stream. -/
structure PerStream (α : Type) where
  effects : α
  music : α
  wavetable : α
deriving DecidableEq, Repr

/-- One thing per kind. -/
structure PerKind (α : Type) where
  effects : α
  music : α
  wavetable : α
  cd : α
deriving DecidableEq, Repr

/-- The operations of rule R3, with the operands of rule R92. -/
inductive Instr where
  /-- R230 -/
  | init
  /-- R231 -/
  | reset
  /-- R232 -/
  | setfmt (f : Fmt)
  /-- R233 -/
  | teardown
  /-- R120 -/
  | regh (st : Stream) (cb : Cb) (ctx : Ctx)
  /-- R121 -/
  | tick (st : Stream)
  /-- R152 -/
  | speedchg
  /-- R214 -/
  | setcdvol (left right : BitVec 16)
  /-- R215 -/
  | setfilt (k : Kind) (cb : Cb) (ctx : Ctx)
  /-- R170 -/
  | cdcheck
  /-- R171 -/
  | cdstart
  /-- R172 -/
  | cdstop
  /-- R122, internal -/
  | flush (st : Stream)
  /-- R173, internal -/
  | cdsig
  /-- R153, environment -/
  | timeadv (t : Time)
  /-- R180, worker -/
  | wready
  /-- R181, worker -/
  | wwake
  /-- R182, worker: one sub-step of rule R183 -/
  | wmix
deriving DecidableEq, Repr

end Sys2Proof
end

