-- ==== Sys2Proof/WellFormed.lean ====
section
/-! DEFINITION. Which operations the command format can name: the value constraints of rule R93, and which operations
have an encoding (rule R95). A stream operand is one of the three by its type, so the constraint `SEL != 3`
needs no check here. -/

namespace Sys2Proof

/-- The value constraint of R93 that the operand types leave open: REGH never names the null callback. -/
def Instr.wf : Instr → Bool
  | .regh _ cb _ => cb != 0
  | .init | .reset | .setfmt _ | .teardown | .tick _ | .speedchg | .setcdvol _ _ | .setfilt _ _ _ => true
  | .cdcheck | .cdstart | .cdstop => true
  | .flush _ | .cdsig | .timeadv _ | .wready | .wwake | .wmix => true

/-- The operations that can be issued on the command port (R3, R95). -/
def Instr.encoded : Instr → Bool
  | .init | .reset | .setfmt _ | .teardown | .regh _ _ _ | .tick _ | .speedchg | .setcdvol _ _ | .setfilt _ _ _ => true
  | .cdcheck | .cdstart | .cdstop => true
  | .flush _ | .cdsig | .timeadv _ | .wready | .wwake | .wmix => false

end Sys2Proof
end

