-- ==== Sys2Proof/Decode.lean ====
section
/-! DEFINITION. Decoding and encoding of command words (rules R91 to R96), and the assembler syntax of rule R97. -/

namespace Sys2Proof

/-- Why a word is `ILLEGAL`, the three tests of R94 in their order. -/
inductive Illegal where
  /-- no row of R93 has this `OP` -/
  | reservedOp
  /-- a must-be-zero bit is set: `(word AND mask) != match` -/
  | mustBeZero
  /-- a value constraint fails: `SEL = 3` for REGH or TICK, `CB = 0` for REGH -/
  | constraint
deriving DecidableEq, Repr

/-- What a word decodes to (R94). -/
inductive Decoded where
  | instr (i : Instr)
  | illegal (r : Illegal)
deriving DecidableEq, Repr

/-! The fields of CMD64 (R91). -/

def opOf (w : Word) : BitVec 8 := w.extractLsb' 56 8
def selOf (w : Word) : BitVec 4 := w.extractLsb' 52 4
def cbOf (w : Word) : Cb := w.extractLsb' 32 12
def argOf (w : Word) : BitVec 32 := w.extractLsb' 0 32

/-- `SEL` as a stream index (R92); 3 and above name no stream. -/
def streamOf (sel : BitVec 4) : Option Stream :=
  match sel.toNat with
  | 0 => some .effects
  | 1 => some .music
  | 2 => some .wavetable
  | _ => none

/-- `SEL` as a kind index (R92). -/
def kindOf (sel : BitVec 4) : Option Kind :=
  match sel.toNat with
  | 0 => some .effects
  | 1 => some .music
  | 2 => some .wavetable
  | 3 => some .cd
  | _ => none

/-- `SEL[0]` as a format bit (R92). -/
def fmtOf (sel : BitVec 4) : Fmt := if sel.getLsbD 0 then .float else .int16

/-- One row of R93: the operation code, the pattern, the mask, and the operands of R92 under the row's value
constraints (`none` where a constraint fails). -/
structure Row where
  op : BitVec 8
  pat : Word
  mask : Word
  build : Word → Option Instr

/-- The opcode map of R93. -/
def opcodeRows : List Row :=
  [ ⟨0x01, 0x0100000000000000, 0xFFFFFFFFFFFFFFFF, fun _ => some .init⟩,
    ⟨0x02, 0x0200000000000000, 0xFFFFFFFFFFFFFFFF, fun _ => some .reset⟩,
    ⟨0x03, 0x0300000000000000, 0xFFEFFFFFFFFFFFFF, fun w => some (.setfmt (fmtOf (selOf w)))⟩,
    ⟨0x04, 0x0400000000000000, 0xFFFFFFFFFFFFFFFF, fun _ => some .teardown⟩,
    ⟨0x10, 0x1000000000000000, 0xFFCFF00000000000, fun w =>
      (streamOf (selOf w)).bind fun st => if cbOf w = 0 then none else some (.regh st (cbOf w) (argOf w))⟩,
    ⟨0x11, 0x1100000000000000, 0xFFCFFFFFFFFFFFFF, fun w => (streamOf (selOf w)).map .tick⟩,
    ⟨0x12, 0x1200000000000000, 0xFFFFFFFFFFFFFFFF, fun _ => some .speedchg⟩,
    ⟨0x20, 0x2000000000000000, 0xFFFFFFFF00000000, fun w =>
      some (.setcdvol ((argOf w).extractLsb' 16 16) ((argOf w).extractLsb' 0 16))⟩,
    ⟨0x21, 0x2100000000000000, 0xFFCFF00000000000, fun w =>
      (kindOf (selOf w)).map fun k => .setfilt k (cbOf w) (argOf w)⟩,
    ⟨0x30, 0x3000000000000000, 0xFFFFFFFFFFFFFFFF, fun _ => some .cdcheck⟩,
    ⟨0x31, 0x3100000000000000, 0xFFFFFFFFFFFFFFFF, fun _ => some .cdstart⟩,
    ⟨0x32, 0x3200000000000000, 0xFFFFFFFFFFFFFFFF, fun _ => some .cdstop⟩ ]

/-- Decoding, total (R94): the operation code, then the must-be-zero bits, then the value constraints. -/
def decode (w : Word) : Decoded :=
  match opcodeRows.find? fun r => r.op == opOf w with
  | none => .illegal .reservedOp
  | some r =>
    if w &&& r.mask = r.pat then
      match r.build w with
      | none => .illegal .constraint
      | some i => .instr i
    else .illegal .mustBeZero

/-! ## The encoder, from the same tables -/

/-- A word of CMD64 with `Z = 0` (R91). -/
def pack (op : BitVec 8) (sel : BitVec 4) (cb : Cb) (arg : BitVec 32) : Word :=
  op ++ sel ++ 0#8 ++ cb ++ arg

/-- The index of a stream (R92). -/
def Stream.sel : Stream → BitVec 4
  | .effects => 0
  | .music => 1
  | .wavetable => 2

/-- The index of a kind (R92). -/
def Kind.sel : Kind → BitVec 4
  | .effects => 0
  | .music => 1
  | .wavetable => 2
  | .cd => 3

/-- The format bit (R92). -/
def Fmt.sel : Fmt → BitVec 4
  | .int16 => 0
  | .float => 1

/-- The command word of an operation; an operation of R95 has none. -/
def encode : Instr → Option Word
  | .init => some (pack 0x01 0 0 0)
  | .reset => some (pack 0x02 0 0 0)
  | .setfmt f => some (pack 0x03 f.sel 0 0)
  | .teardown => some (pack 0x04 0 0 0)
  | .regh st cb ctx => some (pack 0x10 st.sel cb ctx)
  | .tick st => some (pack 0x11 st.sel 0 0)
  | .speedchg => some (pack 0x12 0 0 0)
  | .setcdvol left right => some (pack 0x20 0 0 (left ++ right))
  | .setfilt k cb ctx => some (pack 0x21 k.sel cb ctx)
  | .cdcheck => some (pack 0x30 0 0 0)
  | .cdstart => some (pack 0x31 0 0 0)
  | .cdstop => some (pack 0x32 0 0 0)
  | .flush _ | .cdsig | .timeadv _ | .wready | .wwake | .wmix => none

/-- The instruction the decoder reads from an instruction whose bits are `w` (`nbits` of them given, the bits above
zero): the command word is one 64-bit word, so its bits are the table's bits. -/
def decodeTableWord (nbits w : Nat) : Option Instr :=
  match decode (BitVec.ofNat 64 (w % 2 ^ nbits)) with
  | .instr i => some i
  | .illegal _ => none

/-! ## Assembler syntax (R97) -/

def Stream.asm : Stream → String
  | .effects => "effects"
  | .music => "music"
  | .wavetable => "wavetable"

def Kind.asm : Kind → String
  | .effects => "effects"
  | .music => "music"
  | .wavetable => "wavetable"
  | .cd => "cd"

def Fmt.asm : Fmt → String
  | .int16 => "int16"
  | .float => "float"

/-- The line that issues an operation: a command (R97), `@now` for TIMEADV, `@worker` for a worker step. The
operations inside TICK have no line. -/
def Instr.asm : Instr → Option String
  | .init => some "INIT"
  | .reset => some "RESET"
  | .setfmt f => some ("SETFMT " ++ f.asm)
  | .teardown => some "TEARDOWN"
  | .regh st cb ctx => some ("REGH " ++ st.asm ++ ", " ++ cb.toNat.repr ++ ", " ++ ctx.toNat.repr)
  | .tick st => some ("TICK " ++ st.asm)
  | .speedchg => some "SPEEDCHG"
  | .setcdvol left right => some ("SETCDVOL " ++ left.toNat.repr ++ ", " ++ right.toNat.repr)
  | .setfilt k cb ctx => some ("SETFILT " ++ k.asm ++ ", " ++ cb.toNat.repr ++ ", " ++ ctx.toNat.repr)
  | .cdcheck => some "CDCHECK"
  | .cdstart => some "CDSTART"
  | .cdstop => some "CDSTOP"
  | .timeadv t => some ("@now " ++ t.toNat.repr)
  | .wready | .wwake | .wmix => some "@worker"
  | .flush _ | .cdsig => none

end Sys2Proof
end

