-- ==== Sys2Proof/Config.lean ====
section
/-! DEFINITION. What an instance of the block fixes (the configuration record of rule R8) and the free values of the
places the spec leaves open. The record is held in the state, so that a statement over every state is a statement
over every instance. -/

namespace Sys2Proof

/-- `P_CD_INT_ACC` (R8, R188). -/
inductive IntAcc where
  | saturate
  | wrap
deriving DecidableEq, Repr

/-- Which numerics record an instance has (R8, R12): the suggested one, IEEE 754 as R12 defines it, or another one, of
which only the properties of R12 and R213 are known (D12 "`OPEN` through `Num`", log entry 25). -/
inductive Numerics where
  | ieee
  | other (k : Nat)
deriving DecidableEq, Repr

/-- The configuration record of rule R8. The numerics record is its last two fields: the functions `Num.i2f`, `mulvol`,
`f2i`, `f2f`, `addf` are those of `num` (Machine/Num.lean), and `Num.vol` is the table `vol` (R210, U10). -/
structure Params where
  /-- `P_BUFLEN[s]`, in stereo frames -/
  bufLen : PerStream Nat
  /-- `P_RATE[s]`, in Hz -/
  rate : PerStream Nat
  /-- `P_CD_FREQ`, in Hz -/
  cdFreq : Nat
  /-- `P_CD_BUFLEN`, in stereo frames -/
  cdBufLen : Nat
  /-- `P_CDROM_NUM` -/
  cdromNum : Nat
  /-- `P_CD_N` -/
  cdN : Nat
  /-- `P_TIME_HZ`; the environment may change it (R150) -/
  timeHz : Nat
  /-- `P_FMT_DEFAULT` -/
  fmtDefault : Fmt
  /-- `P_CD_INT_ACC` -/
  cdIntAcc : IntAcc
  /-- `Num`, its five functions on numbers -/
  num : Numerics
  /-- `Num.vol`, entry `i` at place `i` -/
  vol : List F64
deriving DecidableEq, Repr

/-- The suggested divisor (R175). -/
def suggestedCdN (rate0 bufLen0 cdFreq cdBufLen : Nat) : Nat :=
  max 1 ((rate0 / bufLen0) / (cdFreq / cdBufLen))

/-! The entries of R210, evaluated in binary64 with a correctly rounded `log10` as for the sample entries of R211
(DEDUCED, log entry 3). -/

def volPart0 : List F64 :=
  [ 0x0000000000000000, 0x0000000000000000, 0x3FBF3B1EA8BB70B5, 0x3FC901CAE3C60505,
    0x3FCFAB9F6CE29E05, 0x3FD26B623C54A12D, 0x3FD487ED7E257558, 0x3FD650F37CD1138D,
    0x3FD7DCD7C2B3C1D7, 0x3FD93A0B45D99BAC, 0x3FDA726A48971403, 0x3FDB8CFD3E7307BC,
    0x3FDC8EF58A67E82C, 0x3FDD7C44B97B3287, 0x3FDE57FB89138661, 0x3FDF2488104B3A58,
    0x3FDFE3DFCEF634AC, 0x3FE04BCE7B5FC7FF, 0x3FE0A089A90E0740, 0x3FE0F0AFC148003B,
    0x3FE13CB92A6CC36C, 0x3FE1850CA863D65B, 0x3FE1CA02A55ABD48, 0x3FE20BE7BF782F41,
    0x3FE24AFECB552D81, 0x3FE287826D5E6C83, 0x3FE2C1A662DED2AE, 0x3FE2F9988CE81A6B,
    0x3FE32F81CAAAFC9B, 0x3FE36386AD7A5D45, 0x3FE395C80E46D697, 0x3FE3C6638A9535ED,
    0x3FE3F573ED9C53C1, 0x3FE423118934D073, 0x3FE44F528181016A, 0x3FE47A4B0D9CA5B1,
    0x3FE4A40DAF2F40AB, 0x3FE4CCAB6260DA6C, 0x3FE4F433C76939A5, 0x3FE51AB546B8E5D9,
    0x3FE5403D308DFCD7, 0x3FE564D7D8A2944B, 0x3FE58890AE850FC5, 0x3FE5AB7253130824,
    0x3FE5CD86AB7BF6B3, 0x3FE5EED6F220E9C0, 0x3FE60F6BC59968AB, 0x3FE62F4D361AD030,
    0x3FE64E82D17666EB, 0x3FE66D13ADDADEE1, 0x3FE68B06737FA5ED, 0x3FE6A861655B1494,
    0x3FE6C52A69000C18, 0x3FE6E1670DBBC53B, 0x3FE6FD1C930953D5, 0x3FE7184FEE6D9FC8,
    0x3FE73305D0CC3605, 0x3FE74D42AB434CCF, 0x3FE7670AB39B96B0, 0x3FE78061E856FD73,
    0x3FE7994C14681000, 0x3FE7B1CCD29ACBF4, 0x3FE7C9E790B66F57, 0x3FE7E19F925F22F0 ]

def volPart1 : List F64 :=
  [ 0x3FE7F8F7F3BD8D2B, 0x3FE80FF3ABF1B52F, 0x3FE826958F5609DD, 0x3FE83CE05196DE53,
    0x3FE852D687A23AD5, 0x3FE8687AA9737BD5, 0x3FE87DCF13BDDF1C, 0x3FE892D60978CF9D,
    0x3FE8A791B5507A15, 0x3FE8BC042AFCF5AB, 0x3FE8D02F688213D7, 0x3FE8E4155759B917,
    0x3FE8F7B7CD8A730F, 0x3FE90B188EABD8F8, 0x3FE91E394CDA1F43, 0x3FE9311BA99A2733,
    0x3FE943C136AF3641, 0x3FE9562B76E36700, 0x3FE9685BDEC3CDB5, 0x3FE97A53D55135B7,
    0x3FE98C14B4A64930, 0x3FE99D9FCA93E3EB, 0x3FE9AEF65934418D, 0x3FE9C0199775A9D9,
    0x3FE9D10AB19D301D, 0x3FE9E1CAC9C20F8C, 0x3FE9F25AF842232B, 0x3FEA02BC4C2FEE5D,
    0x3FEA12EFCBBAA215, 0x3FEA22F674908281, 0x3FEA32D13C3C099B, 0x3FEA4281107C1C25,
    0x3FEA5206D797A055, 0x3FEA616370ACBFAD, 0x3FEA7097B3FC184B, 0x3FEA7FA473301D08,
    0x3FEA8E8A79A0DF57, 0x3FEA9D4A8C9479C4, 0x3FEAABE56B7C4DFF, 0x3FEABA5BD02F4624,
    0x3FEAC8AE6F214583, 0x3FEAD6DDF797F247, 0x3FEAE4EB13DCFEA4, 0x3FEAF2D6696E15A5,
    0x3FEB00A0992A8D40, 0x3FEB0E4A3F7EFD58, 0x3FEB1BD3F48ED933, 0x3FEB293E4C5C2701,
    0x3FEB3689D6ED6F70, 0x3FEB43B72071FDA0, 0x3FEB50C6B1648639, 0x3FEB5DB90EAC4B2C,
    0x3FEB6A8EB9BCD019, 0x3FEB774830B4326D, 0x3FEB83E5EE7836DD, 0x3FEB90686AD21D1B,
    0x3FEB9CD01A89496B, 0x3FEBA91D6F7CD310, 0x3FEBB550D8BC055F, 0x3FEBC16AC29DE0E0,
    0x3FEBCD6B96D7A8C1, 0x3FEBD953BC92886D, 0x3FEBE52398805C5B, 0x3FEBF0DB8CEFA889 ]

def volPart2 : List F64 :=
  [ 0x3FEBFC7BF9DEC695, 0x3FEC08053D0E54B8, 0x3FEC1377B212EE99, 0x3FEC1ED3B2663845,
    0x3FEC2A1995774348, 0x3FEC3549B0BA5554, 0x3FEC406457B817BD, 0x3FEC4B69DC1C3655,
    0x3FEC565A8DC3743F, 0x3FEC6136BAC93CA8, 0x3FEC6BFEAF94B540, 0x3FEC76B2B6E557DD,
    0x3FEC815319DF1887, 0x3FEC8BE020161CC4, 0x3FEC965A0F9A0907, 0x3FECA0C12D00E875,
    0x3FECAB15BB71B380, 0x3FECB557FCAE7930, 0x3FECBF88311E2F15, 0x3FECC9A697D62B75,
    0x3FECD3B36EA34D41, 0x3FECDDAEF212D515, 0x3FECE7995D7AF281, 0x3FECF172EB030891,
    0x3FECFB3BD3ABAC79, 0x3FED04F44F566129, 0x3FED0E9C94CD1263, 0x3FED1834D9C951D7,
    0x3FED21BD52FB58AD, 0x3FED2B363410CFBB, 0x3FED349FAFBB609D, 0x3FED3DF9F7B711CF,
    0x3FED47453CD06FAC, 0x3FED5081AEEA845B, 0x3FED59AF7D04A069, 0x3FED62CED53FF5D0,
    0x3FED6BDFE4E50720, 0x3FED74E2D868EC5D, 0x3FED7DD7DB726F21, 0x3FED86BF18DEFF6B,
    0x3FED8F98BAC7829B, 0x3FED9864EA84FDDB, 0x3FEDA123D0B51D55, 0x3FEDA9D5953E9964,
    0x3FEDB27A5F557AF8, 0x3FEDBB12557F4058, 0x3FEDC39D9D96E344, 0x3FEDCC1C5CD0C19C,
    0x3FEDD48EB7BE6988, 0x3FEDDCF4D2524A07, 0x3FEDE54ECFE348F7, 0x3FEDED9CD3303F4F,
    0x3FEDF5DEFE635C95, 0x3FEDFE157315723C, 0x3FEE0640525127C8, 0x3FEE0E5FBC961889,
    0x3FEE1673D1DBDB80, 0x3FEE1E7CB194F658, 0x3FEE267A7AB1BBEB, 0x3FEE2E6D4BA31731,
    0x3FEE3655425D4305, 0x3FEE3E327C5A6F85, 0x3FEE4605169D5590, 0x3FEE4DCD2DB3B8EF ]

def volPart3 : List F64 :=
  [ 0x3FEE558ADDB8D9C0, 0x3FEE5D3E4257D5A0, 0x3FEE64E776CDF918, 0x3FEE6C8695ED01C3,
    0x3FEE741BBA1D51B5, 0x3FEE7BA6FD601487, 0x3FEE832879515671, 0x3FEE8AA0472A0E08,
    0x3FEE920E7FC218C1, 0x3FEE99733B922AE8, 0x3FEEA0CE92B5B32F, 0x3FEEA8209CECB25F,
    0x3FEEAF69719D8769, 0x3FEEB6A927D6B037, 0x3FEEBDDFD6507F8F, 0x3FEEC50D936EC86B,
    0x3FEECC3275427EED, 0x3FEED34E918B4F6C, 0x3FEEDA61FDB92BB1, 0x3FEEE16CCEEDCEDC,
    0x3FEEE86F19FE380F, 0x3FEEEF68F3741C31, 0x3FEEF65A6F8F4F10, 0x3FEEFD43A247240F,
    0x3FEF04249F4BC6A9, 0x3FEF0AFD7A078B07, 0x3FEF11CE45A036C3, 0x3FEF189714F8423F,
    0x3FEF1F57FAB0129D, 0x3FEF261109272C97, 0x3FEF2CC2527D606C, 0x3FEF336BE893EF13,
    0x3FEF3A0DDD0EA8DB, 0x3FEF40A8415505AC, 0x3FEF473B2693370B, 0x3FEF4DC69DBB3417,
    0x3FEF544AB785BFA4, 0x3FEF5AC784736893, 0x3FEF613D14CD8497, 0x3FEF67AB78A7258D,
    0x3FEF6E12BFDE0984, 0x3FEF7472FA1B859B, 0x3FEF7ACC36D56BD8, 0x3FEF811E854EEC1B,
    0x3FEF8769F4997048, 0x3FEF8DAE939573C8, 0x3FEF93EC70F35684, 0x3FEF9A239B342B74,
    0x3FEFA05420AA82D5, 0x3FEFA67E0F7B303C, 0x3FEFACA1759E0C79, 0x3FEFB2BE60DEB394,
    0x3FEFB8D4DEDD3EC9, 0x3FEFBEE4FD0EFACC, 0x3FEFC4EEC8BF1A4B, 0x3FEFCAF24F0F64D1,
    0x3FEFD0EF9CF8E22C, 0x3FEFD6E6BF4C824B, 0x3FEFDCD7C2B3C1D8, 0x3FEFE2C2B3B14B73,
    0x3FEFE8A79EA195C5, 0x3FEFEE868FBB7E73, 0x3FEFF45F9310E1F4, 0x3FF0000000000000 ]

def suggestedVol : List F64 := volPart0 ++ volPart1 ++ volPart2 ++ volPart3

/-- The column "Suggested" of R8 (PRESUMED, general knowledge K1, log entry 2). No rule depends on it. -/
def suggestedParams : Params where
  bufLen := ⟨960, 1381, 980⟩
  rate := ⟨48000, 49716, 44100⟩
  cdFreq := 44100
  cdBufLen := 4410
  cdromNum := 8
  cdN := suggestedCdN 48000 960 44100 4410
  timeHz := 2 ^ 32 * 10 ^ 6
  fmtDefault := .float
  cdIntAcc := .saturate
  num := .ieee
  vol := suggestedVol

/-! ## Free values

Opaque constants with no body: nothing constrains them. The `Nat` is the counter `draws` of the state, so that two
uses are two values. -/

/-- An element of a source's answer that the environment has not fixed (R75, R76, log entry 7). -/
opaque Config.freeSource : Nat → I32

/-- The count of a decode that the environment has not fixed (R75, R77, log entry 7). -/
opaque Config.freeCount : Nat → Nat

/-- An element of a decoded block that the environment has not fixed (R75, R77, U5, log entry 7). -/
opaque Config.freeBlock : Nat → I16

/-- An answer of the filter that the environment has not fixed (R75, R78, log entry 7). -/
opaque Config.freeFilter : Nat → F64

/-- The element of `CDOUT` a non-finite filter answer leaves in integer mode (R188, U4, log entry 11). -/
opaque Config.freeInt16 : Nat → I16

/-- A tick period that does not fit 64 bits or has no divisor (R152 states none, log entry 12). -/
opaque Config.freeLatch : Nat → Time

/-- A deadline whose sum leaves 64 bits (R153 and R231 state none, log entry 12). -/
opaque Config.freeDeadline : Nat → Time

/-- `CD_DIV - 1` where `CD_DIV` is 0 (R173 states none, log entry 12). -/
opaque Config.freeDivider : Nat → Nat

/-! The functions of a numerics record that is not the suggested one, by its number (R12, log entry 25). Machine/Num.lean
takes their values where they have the properties R12 and R213 name. -/

opaque Config.numI2f : Nat → I32 → F32
opaque Config.numMulvol : Nat → Int → F64 → F64
opaque Config.numF2i : Nat → F64 → I16
opaque Config.numF2f : Nat → F64 → F32
opaque Config.numAddf : Nat → F32 → F32 → F32

/-- Sign and payload of the NaN a NaN converts to in binary32 (R213, log entry 11). -/
opaque Config.nanConvert : F64 → F32

/-- Sign and payload of a NaN sum in binary32 (R213, log entry 11). -/
opaque Config.nanSum : F32 → F32 → F32

/-- Sign and payload of a NaN product in binary64 (R186, log entry 11). -/
opaque Config.nanProduct : Int → F64 → F64

end Sys2Proof
end

