-- ==== Sys2Proof/Machine/State.lean ====
section
/-! DEFINITION. The state of the block (rules R20 to R48), the inputs that stand beside it (rule R43), the event history
of rule R80, and the state after power-on (rule R48). -/

namespace Sys2Proof.Machine

/-! ## Named codes -/

/-- `LIFE` (R23). -/
inductive Life where
  | uninit
  | inited
  | active
  | failed
deriving DecidableEq, Repr

/-- `STATUS` (R25, R251). -/
inductive Status where
  | ok
  | capacityExceeded
  | resourceExhausted
  | filterBusy
  | illegalCommand
  | notReady
deriving DecidableEq, Repr

/-- `W_STATE` (R36). -/
inductive WState where
  | absent
  | starting
  | waiting
  | mixing
  | exited
deriving DecidableEq, Repr

/-- A channel of a stereo pair (R61). -/
inductive Channel where
  | left
  | right
deriving DecidableEq, Repr

/-! ## Records -/

/-- A `(CB, CTX)` record: a registered handler (R28) or a filter slot (R41). -/
structure Slot where
  cb : Cb
  ctx : Ctx
deriving DecidableEq, Repr

/-- The empty filter slot, `CB = 0` (R41). -/
def Slot.empty : Slot := ⟨0, 0⟩

/-- A converted buffer: all elements of one format (R30, R39). The constructor is the format bit of a delivery (R79). -/
inductive Block where
  | int16 (xs : List I16)
  | float (xs : List F32)
deriving DecidableEq, Repr

/-- The buffers (R60), each the list of its elements in index order. A buffer that holds no values, because nothing has
allocated or written it (R48), is the empty list (log entry 5). -/
structure Memory where
  /-- `RAW[s]` (R29) -/
  raw : PerStream (List I32)
  /-- `OUT[s]` (R30) -/
  out : PerStream Block
  /-- `CDBUF[d]` (R38) -/
  cdbuf : List (List I16)
  /-- `CDOUT` (R39) -/
  cdout : Block
  /-- `VOLTAB` (R42) -/
  voltab : List F64
deriving DecidableEq, Repr

/-- The level inputs of one drive slot (R43). -/
structure DriveIn where
  busEn : Bool
  playing : Bool
  hasVol : Bool
  volL : BitVec 8
  volR : BitVec 8
  routeL : BitVec 2
  routeR : BitVec 2
deriving DecidableEq, Repr

/-- A drive slot that is configured for no bus, with the identity routing of R185. -/
def DriveIn.off : DriveIn := ⟨false, false, false, 0, 0, 1, 2⟩

/-- Oracle answers the environment has fixed in advance (R75, R97), each list in the order of the calls. Where a list is
empty, or its next answer has the wrong length (U13), the answer is a free value (log entry 7). -/
structure Answers where
  /-- answers of `Src` (R76) -/
  source : List (List I32)
  /-- answers of `Drv.decode` (R77) -/
  decode : List (Nat × List I16)
  /-- answers of `Flt` (R78) -/
  filter : List F64
deriving DecidableEq, Repr

/-- What the environment can do between two steps (R43, R97, R150). -/
inductive EnvMove where
  /-- TIMEADV (R153) -/
  | now (t : Time)
  /-- a new `P_TIME_HZ`, at a speed-change event (R150) -/
  | timeHz (n : Nat)
  | allocOk (b : Bool)
  | drive (d : Nat) (x : DriveIn)
  | source (v : List I32)
  | decode (r : Nat) (blk : List I16)
  | filter (x : F64)
deriving DecidableEq, Repr

/-- One turn of the one global order of steps (R67). -/
inductive Turn where
  /-- the host issues a command word (R90) -/
  | command (w : Word)
  /-- the main path fires a due tick (R153) -/
  | timer
  /-- the main path goes on, if what it waits for has come (R171, R172) -/
  | main
  /-- the worker takes its next step (R180 to R182) -/
  | worker
  /-- the environment moves -/
  | env (m : EnvMove)
deriving DecidableEq, Repr

/-- What is left of a command once its stop of the worker is complete (R172 and the commands that perform its body). -/
inductive AfterStop where
  /-- CDSTOP, or a CDCHECK, alone or inside RESET or SETFMT -/
  | done
  /-- a RESET whose allocation failed (R231 step 2) -/
  | resetFailed
  /-- TEARDOWN (R233) -/
  | teardown
deriving DecidableEq, Repr

/-- What the main path is doing (R267): nothing, or waiting inside the command whose word is `w`. -/
inductive MainPhase where
  | idle
  /-- R171 step 3 -/
  | awaitReady (w : Word)
  /-- R172 step 2 -/
  | awaitExit (k : AfterStop) (w : Word)
deriving DecidableEq, Repr

/-- The next sub-step of the pass in flight (R182, R183). -/
inductive MixPos where
  | clear
  | drive (d : Nat)
  | deliver
deriving DecidableEq, Repr

/-- The events of R80. The block reads none of them. -/
inductive Event where
  /-- a command word accepted, with its status -/
  | response (w : Word) (st : Status)
  | tick (st : Stream)
  /-- a call of `Src(cb, ctx, n)` and its answer -/
  | source (h : Slot) (n : Nat) (answer : List I32)
  /-- a call of `Drv.decode(d)` and its answer -/
  | decode (d r : Nat) (blk : List I16)
  /-- a call of `Flt(cb, ctx, ch, x)` and its answer -/
  | filter (h : Slot) (ch : Channel) (x answer : F64)
  | sampledBus (d : Nat) (v : Bool)
  | sampledPlaying (d : Nat) (v : Bool)
  /-- `Drv.has_vol(d)`, and the two volumes where they are used -/
  | sampledVol (d : Nat) (v : Option (BitVec 8 × BitVec 8))
  | sampledRoute (d : Nat) (left right : BitVec 2)
  /-- a delivery event (R79); the format bit is the constructor of the block -/
  | deliver (k : Kind) (data : Block)
  | setSig
  | clearSig
  | setStart
  | clearStart
deriving DecidableEq, Repr

/-- The level outputs (R44), with the codes of R23, R25, R26 and R36. -/
structure Outputs where
  status : BitVec 4
  flags : BitVec 1
  life : BitVec 2
  wState : BitVec 3
  pos : PerStream Nat
  cdVolL : BitVec 16
  cdVolR : BitVec 16
deriving DecidableEq, Repr

/-! ## How a step can stop -/

/-- Why the machine stops. -/
inductive Fault where
  /-- MIX.drive met a buffer element that holds no value: `VOLTAB` not built, or `CDOUT` not cleared in the pass's
  format and length (U7). No run from power-on gets there. Safe: the machine stops where the spec gives no value. -/
  | unspecifiedRead
deriving DecidableEq, Repr

/-- Why a step has no meaning. -/
inductive Refusal where
  /-- an instruction that has no meaning yet, by its mnemonic; safe -/
  | notModelled (mnemonic : String)
  /-- `NOW` would decrease, a move the environment does not have (R150, R296, U8); safe -/
  | timeBackwards
  /-- `P_TIME_HZ` would fall below a `P_RATE[s]`, which R8 excludes; safe -/
  | timeBaseTooSmall
  /-- an input of a drive slot at or above `P_CDROM_NUM`, which does not exist (R8, R43); safe -/
  | noSuchDrive
deriving DecidableEq, Repr

/-! ## The state -/

/-- The state of the block, its configuration, its inputs, and the model's own fields. -/
structure State where
  /-- the configuration record (R8) -/
  cfg : Params
  /-- `LIFE` (R23) -/
  life : Life
  /-- `FMT` (R24) -/
  fmt : Fmt
  /-- `STATUS` (R25) -/
  status : Status
  /-- `FLAGS` bit 0, `ACC_OVF`; no other bit exists (R26) -/
  accOvf : Bool
  /-- `POS[s]` (R27) -/
  pos : PerStream Nat
  /-- `H[s][0 .. HCOUNT[s]-1]` in registration order; `HCOUNT[s]` is the length (R28, log entry 13) -/
  handlers : PerStream (List Slot)
  /-- `LATCH[s]` (R31) -/
  latch : PerStream Time
  /-- `DEADLINE[s]` (R31) -/
  deadline : PerStream Time
  /-- `TEN[s]` (R31) -/
  ten : PerStream Bool
  /-- `CD_ENABLE` (R32) -/
  cdEnable : Bool
  /-- `CD_DIV` (R32) -/
  cdDiv : Nat
  /-- `RUN` (R33) -/
  run : Bool
  /-- `SIG` (R34) -/
  sig : Bool
  /-- `START_EVT` (R35) -/
  startEvt : Bool
  /-- `W_STATE` (R36) -/
  wState : WState
  /-- `W_FMT` (R37) -/
  wFmt : Fmt
  /-- `W_FILT` (R37) -/
  wFilt : Slot
  /-- `CD_VOL_L` (R40) -/
  cdVolL : BitVec 16
  /-- `CD_VOL_R` (R40) -/
  cdVolR : BitVec 16
  /-- `FILT[k]` (R41) -/
  filt : PerKind Slot
  /-- the buffers (R29, R30, R38, R39, R42) -/
  mem : Memory
  /-- the wait of the main path (R46, R267) -/
  main : MainPhase
  /-- the place in the pass in flight (R46 (b), R183) -/
  mixPos : MixPos
  /-- the input `NOW` (R43, R150) -/
  now : Time
  /-- the input `alloc_ok` (R43, R231) -/
  allocOk : Bool
  /-- the drive inputs (R43) -/
  drives : List DriveIn
  /-- oracle answers fixed in advance (R75, R97) -/
  answers : Answers
  /-- the turns still to be taken: the command words to come and the order of the agents (R67, R90, R258) -/
  agenda : List Turn
  /-- the model's own counter that indexes the free values (log entry 7) -/
  draws : Nat
  /-- the event history (R80), newest first -/
  hist : List Event
deriving DecidableEq, Repr

/-- The machine after power-on: the column "Power-on" of R48. The values marked "unspec" there are the ones of log
entries 4 and 5, the parameters those of log entry 2, the inputs those of log entry 6. -/
def State.reset : State where
  cfg := suggestedParams
  life := .uninit
  fmt := .int16
  status := .ok
  accOvf := false
  pos := ⟨0, 0, 0⟩
  handlers := ⟨[], [], []⟩
  latch := ⟨0, 0, 0⟩
  deadline := ⟨0, 0, 0⟩
  ten := ⟨false, false, false⟩
  cdEnable := false
  cdDiv := 0
  run := false
  sig := false
  startEvt := false
  wState := .absent
  wFmt := .int16
  wFilt := Slot.empty
  cdVolL := 0
  cdVolR := 0
  filt := ⟨Slot.empty, Slot.empty, Slot.empty, Slot.empty⟩
  mem :=
    { raw := ⟨[], [], []⟩
      out := ⟨.int16 [], .int16 [], .int16 []⟩
      cdbuf := List.replicate suggestedParams.cdromNum []
      cdout := .int16 []
      voltab := [] }
  main := .idle
  mixPos := .clear
  now := 0
  allocOk := true
  drives := List.replicate suggestedParams.cdromNum DriveIn.off
  answers := ⟨[], [], []⟩
  agenda := []
  draws := 0
  hist := []

end Sys2Proof.Machine
end

