-- ==== Sys2Proof/Machine/Num.lean ====
section
/-! DEFINITION. The numerics record `Num` (rules R12, R212, R213, R186, R188) and the constraints on the parameters
(rules R8, R211). The suggested record is IEEE 754, exact over integers: a finite value is a sign and a magnitude counted
in units of the format's least subnormal, `2^-149` for binary32 and `2^-1074` for binary64, and every result is the exact
magnitude rounded to nearest, ties to even. -/

namespace Sys2Proof.Machine.Num

/-- Bits of precision of binary32 and binary64. -/
def prec32 : Nat := 24
def prec64 : Nat := 53

/-- The pattern of infinity, sign removed. -/
def inf32 : Nat := 0x7F800000
def inf64 : Nat := 0x7FF0000000000000

/-- The pattern with its sign bit removed. -/
def bits32 (b : F32) : Nat := b.toNat % 2 ^ 31
def bits64 (b : F64) : Nat := b.toNat % 2 ^ 63

def isNan32 (b : F32) : Bool := inf32 < bits32 b
def isInf32 (b : F32) : Bool := bits32 b == inf32
def isNan64 (b : F64) : Bool := inf64 < bits64 b
def isInf64 (b : F64) : Bool := bits64 b == inf64
def isFinite32 (b : F32) : Bool := bits32 b < inf32
def isFinite64 (b : F64) : Bool := bits64 b < inf64

/-- `n / 2^sh` rounded to nearest, ties to even (R213). -/
def rne (n sh : Nat) : Nat :=
  let q := n / 2 ^ sh
  let r := n % 2 ^ sh
  if 2 ^ sh < 2 * r ∨ (2 * r = 2 ^ sh ∧ q % 2 = 1) then q + 1 else q

/-- The pattern of the magnitude `n` counted in units `2^-extra` of the least subnormal: rounded to `prec` bits, to
infinity where it is too large (R213). The exponent field and the fraction add up in one sum, so a fraction that
rounds up to the next power of two carries into the exponent. -/
def packMag (prec inf extra n : Nat) : Nat :=
  let sh := max (n.log2 + 1 - prec) extra
  min inf ((sh - extra) * 2 ^ (prec - 1) + rne n sh)

/-- The magnitude of a finite pattern in units of the least subnormal. -/
def unpackMag (prec bits : Nat) : Nat :=
  let e := bits / 2 ^ (prec - 1)
  let f := bits % 2 ^ (prec - 1)
  if e = 0 then f else (f + 2 ^ (prec - 1)) * 2 ^ (e - 1)

def mag32 (b : F32) : Nat := unpackMag prec32 (bits32 b)
def mag64 (b : F64) : Nat := unpackMag prec64 (bits64 b)

/-- The value of a finite binary32 pattern in units of `2^-149`. -/
def val32 (b : F32) : Int := if b.msb then -(mag32 b : Int) else mag32 b

/-- The value of a finite binary64 pattern in units of `2^-1074`. -/
def val64 (b : F64) : Int := if b.msb then -(mag64 b : Int) else mag64 b

/-- A binary32 pattern from its sign and the rest. -/
def sign32 (neg : Bool) (m : Nat) : F32 := BitVec.ofNat 32 (m + if neg then 2 ^ 31 else 0)

/-- A binary64 pattern from its sign and the rest. -/
def sign64 (neg : Bool) (m : Nat) : F64 := BitVec.ofNat 64 (m + if neg then 2 ^ 63 else 0)

/-- A quiet NaN whose sign and payload are free (log entry 11). -/
def quiet32 (free : F32) : F32 := free ||| 0x7FC00000
def quiet64 (free : F64) : F64 := free ||| 0x7FF8000000000000

/-- `clamp16` (R10, R127). -/
def clamp16 (v : Int) : Int := if v < -32768 then -32768 else if 32767 < v then 32767 else v

/-- `trunc` of a finite binary64 value (R188). -/
def trunc64 (v : F64) : Int :=
  let t : Int := (mag64 v / 2 ^ 1074 : Nat)
  if v.msb then -t else t

/-- The pattern of 1.0. -/
def one64 : F64 := 0x3FF0000000000000

/-! ## The suggested record: IEEE 754 -/

/-- `RNE_f32(x) * 2^-15` (R212). Scaling by a power of two is exact here, so rounding the scaled magnitude is the same
value: `|x| * 2^-15` is `|x| * 2^134` units of `2^-149`. -/
def ieeeI2f (x : I32) : F32 := sign32 x.msb (packMag prec32 inf32 0 (x.toInt.natAbs * 2 ^ 134))

/-- The binary64 product of an integer and a table entry (R186). The table is finite (R213); an entry that is not follows
IEEE 754 all the same. -/
def ieeeMulvol (x : Int) (g : F64) : F64 :=
  let neg := decide (x < 0) ^^ g.msb
  if isNan64 g || (isInf64 g && x == 0) then quiet64 (Config.nanProduct x g)
  else if isInf64 g then sign64 neg inf64
  else sign64 neg (packMag prec64 inf64 0 (x.natAbs * mag64 g))

/-- `clamp16(trunc(v))` of a finite `v` (R188). -/
def ieeeF2i (v : F64) : I16 := BitVec.ofInt 16 (clamp16 (trunc64 v))

/-- `RNE_f32(v * 2^-15)` (R188): the magnitude of `v * 2^-15` is counted in units of `2^-1089`, 940 binary places below
the least binary32 subnormal. Infinity and NaN follow IEEE 754 (R213). -/
def ieeeF2f (v : F64) : F32 :=
  if isNan64 v then quiet32 (Config.nanConvert v)
  else if isInf64 v then sign32 v.msb inf32
  else sign32 v.msb (packMag prec32 inf32 940 (mag64 v))

/-- IEEE 754 binary32 addition, round to nearest even (R188, R213). -/
def ieeeAddf (a b : F32) : F32 :=
  if isNan32 a || isNan32 b || (isInf32 a && isInf32 b && a.msb != b.msb) then quiet32 (Config.nanSum a b)
  else if isInf32 a then a
  else if isInf32 b then b
  else
    let z := val32 a + val32 b
    if z = 0 then sign32 (a.msb && b.msb) 0
    else sign32 (decide (z < 0)) (packMag prec32 inf32 0 z.natAbs)

/-! ## The properties every record has (R12, last column; R213) -/

/-- `i2f`: exact up to `2^24` in magnitude, sign preserving, `i2f(0) = +0.0`; finite (R213). -/
def i2fOk (x : I32) (r : F32) : Bool :=
  isFinite32 r && r.msb == x.msb && (mag32 r == 0) == (x == 0)
    && (decide (2 ^ 24 < x.toInt.natAbs) || val32 r == x.toInt * 2 ^ 134)

/-- `mulvol`: `mulvol(x, 1.0) = x`, `mulvol(x, 0.0) = 0`, `mulvol(0, g) = 0`; finite (R213). -/
def mulvolOk (x : Int) (g r : F64) : Bool :=
  isFinite64 r && (g != one64 || val64 r == x * 2 ^ 1074) && ((x != 0 && mag64 g != 0) || mag64 r == 0)

/-- `f2i`: the identity on the integers of the int16 range. -/
def f2iOk (v : F64) (r : I16) : Bool :=
  val64 v != trunc64 v * 2 ^ 1074 || clamp16 (trunc64 v) != trunc64 v || r.toInt == trunc64 v

/-- `f2f`: `f2f(0) = 0`; finite (R213). -/
def f2fOk (v : F64) (r : F32) : Bool := isFinite32 r && (mag64 v != 0 || mag32 r == 0)

/-- `addf`: `addf(0, b) = b`; finite (R213). -/
def addfOk (a b r : F32) : Bool := isFinite32 r && (mag32 a != 0 || val32 r == val32 b)

/-- The largest finite value of its sign in place of an infinity. -/
def saturate32 (r : F32) : F32 := if isInf32 r then sign32 r.msb (inf32 - 1) else r

/-- A free value where it has a property, else the suggested value: every value with the property, and no other. -/
def within {α : Type} (ok : α → Bool) (free suggested : α) : α := if ok free then free else suggested

/-! ## The record of an instance -/

/-- `Num.i2f` (R12, R212). -/
def i2f (n : Numerics) (x : I32) : F32 :=
  match n with
  | .ieee => ieeeI2f x
  | .other k => within (i2fOk x) (Config.numI2f k x) (ieeeI2f x)

/-- `Num.mulvol` (R12, R186). -/
def mulvol (n : Numerics) (x : Int) (g : F64) : F64 :=
  match n with
  | .ieee => ieeeMulvol x g
  | .other k => if isFinite64 g then within (mulvolOk x g) (Config.numMulvol k x g) (ieeeMulvol x g) else ieeeMulvol x g

/-- `Num.f2i` (R12, R188) of a finite value; no result where `v` is a NaN or an infinity (U4). -/
def f2i (n : Numerics) (v : F64) : Option I16 :=
  if isFinite64 v then
    match n with
    | .ieee => some (ieeeF2i v)
    | .other k => some (within (f2iOk v) (Config.numF2i k v) (ieeeF2i v))
  else none

/-- `Num.f2f` (R12, R188); a NaN or an infinity follows IEEE 754 in every record, and a finite value gives a finite one
(R213). The suggested record alone overflows by IEEE 754, on a filter answer too large for binary32 (log entry 25). -/
def f2f (n : Numerics) (v : F64) : F32 :=
  match n with
  | .ieee => ieeeF2f v
  | .other k => if isFinite64 v then within (f2fOk v) (Config.numF2f k v) (saturate32 (ieeeF2f v)) else ieeeF2f v

/-- `Num.addf` (R12, R188); a NaN or an infinity follows IEEE 754 in every record, and finite values give a finite one
(R213), but for an overflow of the suggested record (log entry 25). -/
def addf (n : Numerics) (a b : F32) : F32 :=
  match n with
  | .ieee => ieeeAddf a b
  | .other k =>
    if isFinite32 a && isFinite32 b then within (addfOk a b) (Config.numAddf k a b) (saturate32 (ieeeAddf a b))
    else ieeeAddf a b

/-- `Num.vol(i)` (R210), the parameter `cfg.vol`. -/
def vol (c : Params) (i : Nat) : F64 := c.vol.getD i 0

end Sys2Proof.Machine.Num

namespace Sys2Proof

open Sys2Proof.Machine

/-! ## The constraints on the parameters -/

/-- Two patterns of positive values at most four units in the last place apart: the last digit of a printed entry is open
(R211, U10, G5; log entry 3). -/
def nearEntry (a b : F64) : Bool := decide (a.toNat ≤ b.toNat + 4) && decide (b.toNat ≤ a.toNat + 4)

/-- The sample entries of R211. -/
def sampleEntries : List (Nat × F64) :=
  [ (2, 0x3FBF3B1EA8BB70B5), (3, 0x3FC901CAE3C60505), (4, 0x3FCFAB9F6CE29E05), (8, 0x3FD7DCD7C2B3C1D7),
    (16, 0x3FDFE3DFCEF634AC), (32, 0x3FE3F573ED9C53C1), (64, 0x3FE7F8F7F3BD8D2B), (100, 0x3FEA8E8A79A0DF57),
    (128, 0x3FEBFC7BF9DEC695), (192, 0x3FEE558ADDB8D9C0), (200, 0x3FEE920E7FC218C1), (254, 0x3FEFF45F9310E1F4) ]

/-- `20 * log10(2) / 48` in units of `2^-64` (R211 (e)). -/
def octave : Nat := 2313759703551398805

/-- R211 (e): doubling the index adds `20 * log10(2) / 48`, up to the last digits of the two entries (`2^-50`, eight units
in the last place of an entry below 1; log entry 3). -/
def octaveStep (lo hi : F64) : Bool :=
  decide (Num.mag64 lo + octave * 2 ^ 1010 ≤ Num.mag64 hi + 2 ^ 1024)
    && decide (Num.mag64 hi ≤ Num.mag64 lo + octave * 2 ^ 1010 + 2 ^ 1024)

/-- The properties of R211, and no more: 256 entries, (a) and (d) `vol(0) = vol(1) = 0.0`, entry 2 above zero and
`vol(255) = 1.0`, (b) never decreasing, (c) in `[0, 1]`, (e) the step of an octave from the first non-zero entry on, and
the sample entries up to their last digit. For bit patterns of non-negative values the order of the values is the order
of the patterns. -/
def volOk (v : List F64) : Bool :=
  v.length == 256 && v.getD 0 1 == 0 && v.getD 1 1 == 0 && v.getD 2 0 != 0 && v.getD 255 0 == Num.one64
    && ((v.zip v.tail).all fun p => p.1.toNat ≤ p.2.toNat)
    && ((List.range 126).all fun j => octaveStep (v.getD (j + 2) 0) (v.getD (2 * (j + 2)) 0))
    && (sampleEntries.all fun p => nearEntry (v.getD p.1 0) p.2)

/-- The constraints of R8 and, on the table, of R211. -/
def Params.wf (c : Params) : Bool :=
  decide (1 ≤ c.bufLen.effects) && decide (1 ≤ c.bufLen.music) && decide (1 ≤ c.bufLen.wavetable)
    && decide (1 ≤ c.rate.effects) && decide (1 ≤ c.rate.music) && decide (1 ≤ c.rate.wavetable)
    && decide (1 ≤ c.cdFreq) && decide (1 ≤ c.cdBufLen) && decide (1 ≤ c.cdN)
    && decide (c.rate.effects ≤ c.timeHz) && decide (c.rate.music ≤ c.timeHz) && decide (c.rate.wavetable ≤ c.timeHz)
    && volOk c.vol

end Sys2Proof
end

