-- ==== Sys2Proof/Machine/Flags.lean ====
section
/-! DEFINITION. The one flag computation of the block: 32-bit accumulation and `ACC_OVF` (rules R26, R125, R127), and
the integer-mode accumulation of the CD pass (rule R188). -/

namespace Sys2Proof.Machine

/-- `add32(a, b)`, the two's-complement wrap of `a + b` (R10, R125). -/
def add32 (a b : I32) : I32 := a + b

/-- The exact sum leaves `-2^31 .. 2^31-1` (R125). -/
def add32Overflows (a b : I32) : Bool :=
  decide (a.toInt + b.toInt < -2 ^ 31) || decide (2 ^ 31 - 1 < a.toInt + b.toInt)

/-- `RAW[s]` after one source's contributions are added, element by element (R123). -/
def addAll (raw c : List I32) : List I32 := List.zipWith add32 raw c

/-- Some addition of the contributions overflows (R125). -/
def addAllOverflows (raw c : List I32) : Bool := (List.zipWith add32Overflows raw c).any id

/-- `clamp16` on an accumulator element, as `int32` (R124). -/
def clampRaw (r : I32) : I32 := BitVec.ofInt 32 (Num.clamp16 r.toInt)

/-- "narrow to 16-bit" (R124). -/
def narrow (r : I32) : I16 := r.truncate 16

/-- Integer-mode accumulation (R188): a clamped sum or one modulo `2^16`, by `P_CD_INT_ACC`. -/
def accInt (mode : IntAcc) (a y : I16) : I16 :=
  match mode with
  | .saturate => BitVec.ofInt 16 (Num.clamp16 (a.toInt + y.toInt))
  | .wrap => a + y

end Sys2Proof.Machine
end

