-- ==== Sys2Proof/Machine/Operands.lean ====
section
/-! DEFINITION. The operand forms: per-stream and per-kind registers selected by an index (rules R28, R41, R92), the
effective index of a sample (rule R61), and the routed source sample (rule R185). -/

namespace Sys2Proof

/-- Register of stream `st`. -/
def PerStream.get {α : Type} (p : PerStream α) (st : Stream) : α :=
  match st with
  | .effects => p.effects
  | .music => p.music
  | .wavetable => p.wavetable

/-- Write of the register of stream `st`. -/
def PerStream.set {α : Type} (p : PerStream α) (st : Stream) (v : α) : PerStream α :=
  match st with
  | .effects => { p with effects := v }
  | .music => { p with music := v }
  | .wavetable => { p with wavetable := v }

/-- The same value in the register of every stream. -/
def PerStream.all {α : Type} (v : α) : PerStream α := ⟨v, v, v⟩

/-- Slot of kind `k`. -/
def PerKind.get {α : Type} (p : PerKind α) (k : Kind) : α :=
  match k with
  | .effects => p.effects
  | .music => p.music
  | .wavetable => p.wavetable
  | .cd => p.cd

/-- Write of the slot of kind `k`. -/
def PerKind.set {α : Type} (p : PerKind α) (k : Kind) (v : α) : PerKind α :=
  match k with
  | .effects => { p with effects := v }
  | .music => { p with music := v }
  | .wavetable => { p with wavetable := v }
  | .cd => { p with cd := v }

/-- The same value in the slot of every kind. -/
def PerKind.all {α : Type} (v : α) : PerKind α := ⟨v, v, v, v⟩

/-- The sink kind of a stream (R79, C9). -/
def Stream.kind : Stream → Kind
  | .effects => .effects
  | .music => .music
  | .wavetable => .wavetable

end Sys2Proof

namespace Sys2Proof.Machine

/-- The channel's place in a pair (R61). -/
def Channel.index : Channel → Nat
  | .left => 0
  | .right => 1

/-- The effective index, the only addressing mode: frame `k`, channel `c` is element `2*k + c` (R61). -/
def elementIndex (k : Nat) (c : Channel) : Nat := 2 * k + c.index

/-- The frame of an element. -/
def frameOf (i : Nat) : Nat := i / 2

/-- The channel of an element. -/
def channelOf (i : Nat) : Channel := if i % 2 = 0 then .left else .right

/-- One of two per-channel values. -/
def Channel.pick {α : Type} (c : Channel) (l r : α) : α :=
  match c with
  | .left => l
  | .right => r

/-- The routed source sample (R185): bit 0 of the mask passes the left source, bit 1 the right. -/
def routeSum (m : BitVec 2) (sL sR : I16) : Int :=
  (if m.getLsbD 0 then sL.toInt else 0) + (if m.getLsbD 1 then sR.toInt else 0)

/-- The inputs of drive slot `d` (R43). -/
def driveAt (s : State) (d : Nat) : DriveIn := s.drives.getD d DriveIn.off

/-- The number of drives with `bus_en = 1` among the `P_CDROM_NUM` slots (R170). -/
def enabledDrives (s : State) : Nat := (List.range s.cfg.cdromNum).countP fun d => (driveAt s d).busEn

/-- Elements of a buffer of stream `st`: `2 * P_BUFLEN[s]` (R60). -/
def streamSize (s : State) (st : Stream) : Nat := 2 * s.cfg.bufLen.get st

/-- Elements of a CD block: `2 * P_CD_BUFLEN` (R60). -/
def cdSize (s : State) : Nat := 2 * s.cfg.cdBufLen

end Sys2Proof.Machine
end

