-- ==== Sys2Proof/Machine/Ops.lean ====
section
/-! DEFINITION. The named operations every meaning is written over: reading and replacing buffers (rules R10, R60),
answering a command and raising a status (rules R10, R250, R259), the one-slot events (rule R70), delivery
(rule R79), and the oracle calls (rules R75 to R78). -/

namespace Sys2Proof.Machine

/-- A machine step's outcome. -/
abbrev Out := Host.Outcome State Fault Refusal

/-! ## Buffers -/

/-- A buffer name, the spaces of R60 but the handler lists. -/
inductive Space where
  | raw (st : Stream)
  | out (st : Stream)
  | cdbuf (d : Nat)
  | cdout
  | voltab
deriving DecidableEq, Repr

/-- A buffer element with its type (R60). -/
inductive Elem where
  | int32 (v : I32)
  | int16 (v : I16)
  | f32 (v : F32)
  | f64 (v : F64)
deriving DecidableEq, Repr

/-- Element `i` of a converted buffer. -/
def Block.read (b : Block) (i : Nat) : Option Elem :=
  match b with
  | .int16 xs => xs[i]?.map .int16
  | .float xs => xs[i]?.map .f32

/-- `MemRead(space, i)` (R10, R60): `none` where the index is not valid or the buffer holds no value. -/
def Memory.read (m : Memory) (sp : Space) (i : Nat) : Option Elem :=
  match sp with
  | .raw st => (m.raw.get st)[i]?.map .int32
  | .out st => (m.out.get st).read i
  | .cdbuf d => (m.cdbuf.getD d [])[i]?.map .int16
  | .cdout => m.cdout.read i
  | .voltab => m.voltab[i]?.map .f64

/-- The number of elements a converted buffer holds. -/
def Block.length : Block → Nat
  | .int16 xs => xs.length
  | .float xs => xs.length

/-- The format of a converted buffer's elements. -/
def Block.fmt : Block → Fmt
  | .int16 _ => .int16
  | .float _ => .float

/-- `n` zeros of the type a format selects (R30, R182). -/
def Block.zeros (f : Fmt) (n : Nat) : Block :=
  match f with
  | .int16 => .int16 (List.replicate n 0)
  | .float => .float (List.replicate n 0)

/-- A converted buffer whose element type becomes that of a format: its elements where they have that type, else no values
(I-a of R47: no buffer mixes formats; log entry 20). -/
def Block.retype (f : Fmt) (b : Block) : Block := if b.fmt = f then b else Block.zeros f 0

/-- Each of the loops "for i: MemWrite(B, i, …)" over a whole buffer replaces its elements (R60). -/
def Memory.putRaw (m : Memory) (st : Stream) (xs : List I32) : Memory := { m with raw := m.raw.set st xs }
def Memory.putOut (m : Memory) (st : Stream) (b : Block) : Memory := { m with out := m.out.set st b }
def Memory.putCdbuf (m : Memory) (d : Nat) (xs : List I16) : Memory := { m with cdbuf := m.cdbuf.set d xs }
def Memory.putCdout (m : Memory) (b : Block) : Memory := { m with cdout := b }
def Memory.putVoltab (m : Memory) (xs : List F64) : Memory := { m with voltab := xs }

/-- The stream buffers are freed, or not allocated (R231 step 1, R253, R48): `RAW` and `OUT` hold no values (log
entry 20). -/
def Memory.freeStreams (m : Memory) (f : Fmt) : Memory := { m with raw := .all [], out := .all (Block.zeros f 0) }

/-- A list that holds no values or exactly `n` of them. -/
def sized (len n : Nat) : Bool := len == 0 || len == n

/-- The form of the buffers: each holds no values or exactly its size (R29, R30, R38, R39, R42, R60). -/
def Memory.wf (c : Params) (m : Memory) : Bool :=
  sized m.raw.effects.length (2 * c.bufLen.effects) && sized m.raw.music.length (2 * c.bufLen.music)
    && sized m.raw.wavetable.length (2 * c.bufLen.wavetable)
    && sized m.out.effects.length (2 * c.bufLen.effects) && sized m.out.music.length (2 * c.bufLen.music)
    && sized m.out.wavetable.length (2 * c.bufLen.wavetable)
    && m.cdbuf.length == c.cdromNum && m.cdbuf.all (fun b => sized b.length (2 * c.cdBufLen))
    && sized m.cdout.length (2 * c.cdBufLen) && sized m.voltab.length 256

/-! ## Events, responses, statuses -/

/-- The history grows by one event (R80). -/
def State.record (s : State) (e : Event) : State := { s with hist := e :: s.hist }

/-- The response to a command (R90): `STATUS` is written, the response carries the same code, the main path is idle. -/
def State.respond (s : State) (w : Word) (st : Status) : State :=
  { s with status := st, main := .idle, hist := .response w st :: s.hist }

/-- `raise <Status>` (R10, R250, R259), the block's one way to take an error: nothing changes but `STATUS`, the
response carries the code, the main path becomes idle. There is no return operation (R260). -/
def raiseStatus (w : Word) (st : Status) (s : State) : Out := .next (s.respond w st)

/-- The command word of an operation, for its response (R90). -/
def wordOf (i : Instr) : Word := (encode i).getD 0

/-! ## One-slot events (R70) -/

/-- Set `SIG`, whatever it was (R34, R174). -/
def State.setSig (s : State) : State := { s with sig := true, hist := .setSig :: s.hist }

/-- Clear `SIG`. -/
def State.clearSig (s : State) : State := { s with sig := false, hist := .clearSig :: s.hist }

/-- Set `START_EVT` (R35). -/
def State.setStart (s : State) : State := { s with startEvt := true, hist := .setStart :: s.hist }

/-- Clear `START_EVT`. -/
def State.clearStart (s : State) : State := { s with startEvt := false, hist := .clearStart :: s.hist }

/-! ## Ports -/

/-- The answer of the next `Src` call for a period of `n` frames (R76): a vector of `2n` contributions. -/
def State.sourceAnswer (s : State) (n : Nat) : List I32 :=
  let free := (List.range (2 * n)).map fun i => Config.freeSource (s.draws + i)
  match s.answers.source with
  | v :: _ => if v.length = 2 * n then v else free
  | [] => free

/-- The state after the source `h` has answered: the answer is used up and the call recorded (R76, R80). -/
def State.sourceCalled (s : State) (h : Slot) (n : Nat) : State :=
  { s with
    answers := { s.answers with source := s.answers.source.tail }
    draws := s.draws + 2 * n
    hist := .source h n (s.sourceAnswer n) :: s.hist }

/-- The answer of the next `Drv.decode` call (R77): a count and a block of `2 * P_CD_BUFLEN` elements. -/
def State.decodeAnswer (s : State) : Nat × List I16 :=
  let free := (Config.freeCount s.draws, (List.range (cdSize s)).map fun i => Config.freeBlock (s.draws + i))
  match s.answers.decode with
  | a :: _ => if a.2.length = cdSize s then a else free
  | [] => free

/-- The state after drive `d` has answered: the block stored into `CDBUF[d]`, the answer used up, the call recorded
(R77, R80, R184 step 2). -/
def State.decodeCalled (s : State) (d : Nat) : State :=
  { s with
    mem := s.mem.putCdbuf d s.decodeAnswer.2
    answers := { s.answers with decode := s.answers.decode.tail }
    draws := s.draws + cdSize s + 1
    hist := .decode d s.decodeAnswer.1 s.decodeAnswer.2 :: s.hist }

/-- The answer of the `i`-th `Flt` call from here on (R78). -/
def State.filterAnswer (s : State) (i : Nat) : F64 := s.answers.filter[i]?.getD (Config.freeFilter (s.draws + i))

end Sys2Proof.Machine
end

