-- ==== Sys2Proof/Machine/Gain.lean ====
section
/-! DEFINITION. The CD volume registers and the filter slots: SETCDVOL and SETFILT (rules R214, R215). -/

namespace Sys2Proof.Machine

/-- SETCDVOL (R214): two registers that no computation reads. -/
def execSetcdvol (left right : BitVec 16) (s : State) : Out :=
  if s.life = .uninit then raiseStatus (wordOf (.setcdvol left right)) .notReady s
  else .next (({ s with cdVolL := left, cdVolR := right }).respond (wordOf (.setcdvol left right)) .ok)

/-- SETFILT (R215): null clears the slot, a filter goes only into an empty one. -/
def execSetfilt (k : Kind) (cb : Cb) (ctx : Ctx) (s : State) : Out :=
  if s.life = .uninit then raiseStatus (wordOf (.setfilt k cb ctx)) .notReady s
  else if cb = 0 then
    .next (({ s with filt := s.filt.set k Slot.empty }).respond (wordOf (.setfilt k cb ctx)) .ok)
  else if (s.filt.get k).cb = 0 then
    .next (({ s with filt := s.filt.set k ⟨cb, ctx⟩ }).respond (wordOf (.setfilt k cb ctx)) .ok)
  else raiseStatus (wordOf (.setfilt k cb ctx)) .filterBusy s

end Sys2Proof.Machine
end

