-- ==== Sys2Proof/Machine/Signal.lean ====
section
/-! DEFINITION. CDSIG (rule R173): the divider that turns effects periods into tokens for the worker. -/

namespace Sys2Proof.Machine

/-- `CD_DIV - 1`; where `CD_DIV` is 0, which no run reaches, the result is a free value (log entry 12). -/
def State.countDown (s : State) : Nat := if s.cdDiv = 0 then Config.freeDivider s.draws else s.cdDiv - 1

/-- CDSIG (R173): count down while a worker exists, and on 0 reload and set the token. -/
def cdSignal (s : State) : State :=
  if s.cdEnable then
    if s.countDown = 0 then { s with cdDiv := s.cfg.cdN, draws := s.draws + 1 }.setSig
    else { s with cdDiv := s.countDown, draws := s.draws + 1 }
  else s

/-- CDSIG as an operation of R3. -/
def execCdsig (s : State) : Out := .next (cdSignal s)

end Sys2Proof.Machine
end

