-- ==== Sys2Proof/Machine/Accumulator.lean ====
section
/-! DEFINITION. The handler registry and the fixed-period accumulator: REGH, TICK, FLUSH (rules R120 to R126). -/

namespace Sys2Proof.Machine

/-! ## FLUSH -/

/-- Step 1 of FLUSH (R122): zero the accumulation buffer. -/
def clearRaw (st : Stream) (s : State) : State :=
  { s with mem := s.mem.putRaw st (List.replicate (streamSize s st) 0) }

/-- One turn of step 2 of FLUSH (R122, R123, R125): the handler is called with the period length and its context, and
its contributions are added element by element, with the sticky overflow flag. -/
def addSource (st : Stream) (s : State) (h : Slot) : State :=
  let c := s.sourceAnswer (s.cfg.bufLen.get st)
  { s.sourceCalled h (s.cfg.bufLen.get st) with
    mem := s.mem.putRaw st (addAll (s.mem.raw.get st) c)
    accOvf := s.accOvf || addAllOverflows (s.mem.raw.get st) c }

/-- Step 2 of FLUSH: every registered handler once, in registration order (R123). -/
def addSources (st : Stream) (s : State) : State := (s.handlers.get st).foldl (addSource st) s

/-- Step 3 of FLUSH (R124): clamp and narrow, the accumulator itself ending clamped, or scale to binary32. -/
def convert (st : Stream) (s : State) : State :=
  let r := s.mem.raw.get st
  match s.fmt with
  | .int16 =>
    { s with mem := (s.mem.putRaw st (r.map clampRaw)).putOut st (.int16 (r.map fun x => narrow (clampRaw x))) }
  | .float => { s with mem := s.mem.putOut st (.float (r.map (Num.i2f s.cfg.num))) }

/-- Step 4 of FLUSH (R126): one delivery event with all elements of `OUT[s]`. -/
def deliverStream (st : Stream) (s : State) : State := s.record (.deliver st.kind (s.mem.out.get st))

/-- FLUSH (R122), the four steps in order; the EFFECTS stream runs CDSIG after the delivery. -/
def flush (st : Stream) (s : State) : State :=
  let t := deliverStream st (convert st (addSources st (clearRaw st s)))
  match st with
  | .effects => cdSignal t
  | .music => t
  | .wavetable => t

/-- FLUSH as an operation of R3. -/
def execFlush (st : Stream) (s : State) : Out := .next (flush st s)

/-! ## TICK -/

/-- The body of TICK (R121), in both its forms: advance, and at the period's end flush and wrap. -/
def tickBody (st : Stream) (s : State) : State :=
  let p := s.pos.get st + 1
  let t := { s with pos := s.pos.set st p }.record (.tick st)
  if p = s.cfg.bufLen.get st then
    let u := flush st t
    { u with pos := u.pos.set st 0 }
  else t

/-- TICK, the command form (R121). -/
def execTick (st : Stream) (s : State) : Out :=
  if s.life = .active then .next ((tickBody st s).respond (wordOf (.tick st)) .ok)
  else raiseStatus (wordOf (.tick st)) .notReady s

/-! ## REGH -/

/-- REGH (R120): append a handler to the stream's list, at most 8. -/
def execRegh (st : Stream) (cb : Cb) (ctx : Ctx) (s : State) : Out :=
  if s.life = .active then
    if (s.handlers.get st).length = 8 then raiseStatus (wordOf (.regh st cb ctx)) .capacityExceeded s
    else
      .next (({ s with handlers := s.handlers.set st (s.handlers.get st ++ [(⟨cb, ctx⟩ : Slot)]) }).respond
        (wordOf (.regh st cb ctx)) .ok)
  else raiseStatus (wordOf (.regh st cb ctx)) .notReady s

end Sys2Proof.Machine
end

