-- ==== Sys2Proof/Machine/Timer.lean ====
section
/-! DEFINITION. The timer scheduler: SPEEDCHG, TIMEADV and the firing of due ticks (rules R150 to R155). -/

namespace Sys2Proof.Machine

/-- `P_TIME_HZ div P_RATE[s]` (R152, R231); no result is stated where there is no divisor or the quotient does not fit
the 64-bit latch, and the value is then free (log entry 12). -/
def latchOf (timeHz rate draw : Nat) : Time :=
  if rate = 0 ∨ 2 ^ 64 ≤ timeHz / rate then Config.freeLatch draw else BitVec.ofNat 64 (timeHz / rate)

/-- The three latches (R152). -/
def State.latches (s : State) : PerStream Time :=
  ⟨latchOf s.cfg.timeHz s.cfg.rate.effects s.draws,
   latchOf s.cfg.timeHz s.cfg.rate.music (s.draws + 1),
   latchOf s.cfg.timeHz s.cfg.rate.wavetable (s.draws + 2)⟩

/-- A time one latch later (R153, R231); a sum that leaves 64 bits is a free value (log entry 12). -/
def laterBy (t latch : Time) (draw : Nat) : Time :=
  if 2 ^ 64 ≤ t.toNat + latch.toNat then Config.freeDeadline draw else t + latch

/-- SPEEDCHG (R152): new latches, the deadlines keep their times. -/
def execSpeedchg (s : State) : Out :=
  if s.life = .active then
    .next (({ s with latch := s.latches, draws := s.draws + 3 }).respond (wordOf .speedchg) .ok)
  else raiseStatus (wordOf .speedchg) .notReady s

/-- TIMEADV (R153): `NOW` moves forward. A move backward does not exist (R150, R296, U8). -/
def execTimeadv (t : Time) (s : State) : Out :=
  if s.now.toNat ≤ t.toNat then .next { s with now := t } else .refused .timeBackwards

/-- `due(s)` (R153). -/
def due (s : State) (st : Stream) : Bool := s.ten.get st && decide ((s.deadline.get st).toNat ≤ s.now.toNat)

/-- Of the best due stream so far and one more stream, the one to fire first: the lesser deadline, on equal deadlines
the earlier in stream order (R153, R154). -/
def firstDue (s : State) (best : Option Stream) (st : Stream) : Option Stream :=
  if due s st then
    match best with
    | none => some st
    | some b => if (s.deadline.get st).toNat < (s.deadline.get b).toNat then some st else some b
  else best

/-- The due stream that fires next (R153, R154). -/
def nextDue (s : State) : Option Stream :=
  firstDue s (firstDue s (firstDue s none .effects) .music) .wavetable

/-- A tick fired by the timer (R153): the deadline advances by one latch from its own previous value, then the body of
TICK, with no response and no write of `STATUS`. -/
def fireTick (st : Stream) (s : State) : State :=
  tickBody st
    { s with
      deadline := s.deadline.set st (laterBy (s.deadline.get st) (s.latch.get st) s.draws)
      draws := s.draws + 1 }

/-- The main path fires the next due tick, if there is one (R153). -/
def fireDue (s : State) : State :=
  match nextDue s with
  | some st => fireTick st s
  | none => s

end Sys2Proof.Machine
end

