-- ==== Sys2Proof/Machine/Worker.lean ====
section
/-! DEFINITION. The CD-audio worker: the commands that create, destroy and reconcile it (rules R170 to R172), with the
two waits of the main path, and the worker's steps (rules R180 to R188). -/

namespace Sys2Proof.Machine

/-! ## Main path -/

/-- The body of CDSTART (R171): steps 1 and 2; step 3, the wait, is the phase `awaitReady` of the main path. -/
def startBody (w : Word) (s : State) : State :=
  if s.life = .active then
    if s.cdEnable then s.respond w .ok
    else
      { ({ s with run := true }.clearSig.clearStart) with
        cdDiv := s.cfg.cdN, wState := .starting, mixPos := .clear, main := .awaitReady w }
  else s.respond w .notReady

/-- Step 4 of CDSTART (R171), once `START_EVT` is set. What is left of CDCHECK, RESET or SETFMT around it is the status
`OK`, the same. -/
def afterReady (w : Word) (s : State) : State := { s.clearStart with cdEnable := true }.respond w .ok

/-- What is left of a command once no worker exists (R172 step 3; R231 step 2; R233). -/
def afterStop (k : AfterStop) (w : Word) (s : State) : State :=
  match k with
  | .done => s.respond w .ok
  | .resetFailed => { s with handlers := .all [], life := .failed }.respond w .resourceExhausted
  | .teardown =>
    { s with ten := .all false, handlers := .all [], filt := .all Slot.empty, life := .uninit }.respond w .ok

/-- The body of CDSTOP (R172): step 1; step 2, the wait, is the phase `awaitExit` of the main path. With no worker the
rest of the command follows at once. -/
def stopBody (k : AfterStop) (w : Word) (s : State) : State :=
  if s.cdEnable then { ({ s with run := false }.setSig) with main := .awaitExit k w } else afterStop k w s

/-- Step 3 of CDSTOP (R172), the release, once the worker has exited; then the rest of the command. -/
def afterExit (k : AfterStop) (w : Word) (s : State) : State :=
  afterStop k w { ({ s with wState := .absent }.clearSig.clearStart) with cdEnable := false }

/-- The bus inputs of all drives are sampled (R170, R80). -/
def sampleBuses (s : State) : State :=
  (List.range s.cfg.cdromNum).foldl (fun t d => t.record (.sampledBus d (driveAt s d).busEn)) s

/-- The body of CDCHECK (R170): start or stop the worker so that one exists exactly when a drive is enabled. -/
def checkBody (w : Word) (s : State) : State :=
  let n := enabledDrives s
  let t := sampleBuses s
  if 0 < n ∧ s.cdEnable = false then startBody w t
  else if n = 0 ∧ s.cdEnable = true then stopBody .done w t
  else t.respond w .ok

/-- CDCHECK (R170). -/
def execCdcheck (s : State) : Out :=
  if s.life = .active then .next (checkBody (wordOf .cdcheck) s) else raiseStatus (wordOf .cdcheck) .notReady s

/-- CDSTART (R171). -/
def execCdstart (s : State) : Out := .next (startBody (wordOf .cdstart) s)

/-- CDSTOP (R172), legal in every `LIFE` state. -/
def execCdstop (s : State) : Out := .next (stopBody .done (wordOf .cdstop) s)

/-- The condition of the main path's wait holds (R171 step 3, R172 step 2). -/
def mainReady (s : State) : Bool :=
  match s.main with
  | .idle => false
  | .awaitReady _ => s.startEvt
  | .awaitExit _ _ => decide (s.wState = .exited)

/-- The main path goes on with the command it waits in, if its wait has ended; else it has no step. -/
def resume (s : State) : State :=
  if mainReady s then
    match s.main with
    | .idle => s
    | .awaitReady w => afterReady w s
    | .awaitExit k w => afterExit k w s
  else s

/-! ## Worker -/

/-- The worker has a step (R180, R181, R182). -/
def workerEnabled (s : State) : Bool :=
  match s.wState with
  | .starting => true
  | .waiting => s.sig
  | .mixing => true
  | .absent => false
  | .exited => false

/-- W.READY (R180). A worker that is not in STARTING does not take this step (log entry 10). -/
def execWready (s : State) : Out :=
  if s.wState = .starting then .next { s.setStart with wState := .waiting } else .next s

/-- W.WAKE (R181): wait-and-reset of the token, the stop test, the latches of format and filter. `CDOUT` is now a buffer
of the new `W_FMT` (R39, I-a of R47): one of the other format holds no values until MIX.clear (log entry 20). Without a
token the worker is suspended and keeps all its state (R267, log entry 10). -/
def execWwake (s : State) : Out :=
  if s.wState = .waiting ∧ s.sig = true then
    let t := s.clearSig
    if s.run then
      .next
        { t with
          mem := s.mem.putCdout (s.mem.cdout.retype s.fmt)
          wFmt := s.fmt, wFilt := s.filt.cd, wState := .mixing, mixPos := .clear }
    else .next { t with wState := .exited }
  else .next s

/-- The first drive, or the delivery where there is none (R182). -/
def MixPos.first (c : Params) : MixPos := if 0 < c.cdromNum then .drive 0 else .deliver

/-- The drive after `d`, or the delivery after the last (R182). -/
def MixPos.after (c : Params) (d : Nat) : MixPos := if d + 1 < c.cdromNum then .drive (d + 1) else .deliver

/-- MIX.clear (R182 a). -/
def mixClear (s : State) : State :=
  { s with mem := s.mem.putCdout (Block.zeros s.wFmt (cdSize s)), mixPos := MixPos.first s.cfg }

/-- MIX.deliver (R182 c). -/
def mixDeliver (s : State) : State :=
  { s.record (.deliver .cd s.mem.cdout) with wState := .waiting, mixPos := .clear }

/-- Table index of a channel's volume: full volume for a drive with no volume control (R184 step 4). -/
def volIndex (x : DriveIn) (c : Channel) : Nat := if x.hasVol then (c.pick x.volL x.volR).toNat else 255

/-- What MIX.drive has sampled of a drive (R184 step 4) and the block it mixes. -/
structure Sampled where
  gL : F64
  gR : F64
  mL : BitVec 2
  mR : BitVec 2
  blk : List I16
deriving DecidableEq, Repr

/-- The routed sample of element `i` (R185). -/
def Sampled.routed (p : Sampled) (i : Nat) : Int :=
  routeSum ((channelOf i).pick p.mL p.mR)
    (p.blk.getD (elementIndex (frameOf i) .left) 0) (p.blk.getD (elementIndex (frameOf i) .right) 0)

/-- The routed sample times its channel's gain (R186). -/
def Sampled.scaled (n : Numerics) (p : Sampled) (i : Nat) : F64 := Num.mulvol n (p.routed i) ((channelOf i).pick p.gL p.gR)

/-- The value of element `i` after the filter, if one is latched (R187). -/
def mixValue (s : State) (p : Sampled) (i : Nat) : F64 :=
  if s.wFilt.cb ≠ 0 then s.filterAnswer i else p.scaled s.cfg.num i

/-- Element `i` of `CDOUT`, which holds `a`, with `v` converted and accumulated (R188). Where `v` is not finite, possible
only out of a filter, the element itself is free (U4: "any value of int16 for the affected element"); that the element
meant is that of `CDOUT` after the accumulation, and not the converted addend, is the model's reading (DESIGN CHOICE, log
entry 11). -/
def mixInt (s : State) (i : Nat) (a : I16) (v : F64) : I16 :=
  match Num.f2i s.cfg.num v with
  | some y => accInt s.cfg.cdIntAcc a y
  | none => Config.freeInt16 (s.draws + i)

/-- `CDOUT` with one drive's block accumulated (R188), or nothing where `CDOUT` does not hold the pass's elements. -/
def accumulated (s : State) (p : Sampled) : Option Block :=
  match s.wFmt, s.mem.cdout with
  | .int16, .int16 a =>
    if a.length = cdSize s then
      some (.int16 ((List.range (cdSize s)).map fun i => mixInt s i (a.getD i 0) (mixValue s p i)))
    else none
  | .float, .float a =>
    if a.length = cdSize s then
      some (.float ((List.range (cdSize s)).map fun i => Num.addf s.cfg.num (a.getD i 0) (Num.f2f s.cfg.num (mixValue s p i))))
    else none
  | .int16, .float _ => none
  | .float, .int16 _ => none

/-- The filter calls of one drive's block, newest first (R78, R80, R187). -/
def filterEvents (s : State) (p : Sampled) : List Event :=
  if s.wFilt.cb ≠ 0 then
    ((List.range (cdSize s)).map fun i => Event.filter s.wFilt (channelOf i) (p.scaled s.cfg.num i) (s.filterAnswer i)).reverse
  else []

/-- Step 5 of MIX.drive (R184): all frames of the block, left before right. -/
def mixFrames (p : Sampled) (s : State) : Out :=
  match accumulated s p with
  | none => .fault .unspecifiedRead
  | some b =>
    .next
      { s with
        mem := s.mem.putCdout b
        answers := { s.answers with filter := if s.wFilt.cb ≠ 0 then s.answers.filter.drop (cdSize s) else s.answers.filter }
        draws := s.draws + cdSize s
        hist := filterEvents s p ++ s.hist }

/-- Steps 4 and 5 of MIX.drive (R184): sample volume and routing after the decode, then mix. -/
def mixBlock (d : Nat) (blk : List I16) (s : State) : Out :=
  let x := driveAt s d
  let t := (s.record (.sampledVol d (if x.hasVol then some (x.volL, x.volR) else none))).record
    (.sampledRoute d x.routeL x.routeR)
  match s.mem.voltab[volIndex x .left]?, s.mem.voltab[volIndex x .right]? with
  | some gL, some gR => mixFrames ⟨gL, gR, x.routeL, x.routeR, blk⟩ t
  | _, _ => .fault .unspecifiedRead

/-- The first samples of MIX.drive (R184 step 1): the bus, and the status of a drive whose bus is enabled; the pass moves
on to the next sub-step. -/
def pollDrive (d : Nat) (s : State) : State :=
  let t := { s with mixPos := MixPos.after s.cfg d }.record (.sampledBus d (driveAt s d).busEn)
  if (driveAt s d).busEn then t.record (.sampledPlaying d (driveAt s d).playing) else t

/-- MIX.drive(d) (R184), in the order bus, status, decode, volumes and routes, frames; a drive that is disabled, not
playing or dry contributes nothing (R190). -/
def mixDrive (d : Nat) (s : State) : Out :=
  let u := pollDrive d s
  if (driveAt s d).busEn = true ∧ (driveAt s d).playing = true then
    if u.decodeAnswer.1 = 0 then .next (u.decodeCalled d) else mixBlock d u.decodeAnswer.2 (u.decodeCalled d)
  else .next u

/-- W.MIX (R182): the next sub-step of the pass, each one atomic step of the worker (R183). A worker that is not in
MIXING does not take this step (log entry 10). -/
def execWmix (s : State) : Out :=
  if s.wState = .mixing then
    match s.mixPos with
    | .clear => .next (mixClear s)
    | .drive d => mixDrive d s
    | .deliver => .next (mixDeliver s)
  else .next s

end Sys2Proof.Machine
end

