-- ==== Sys2Proof/Machine/Lifecycle.lean ====
section
/-! DEFINITION. The lifecycle commands: INIT, RESET, SETFMT, TEARDOWN (rules R230 to R233). -/

namespace Sys2Proof.Machine

/-- The volume table INIT builds (R210, R230). -/
def volumeTable (c : Params) : List F64 := (List.range 256).map (Num.vol c)

/-- INIT (R230). Of the elements R48 marks "unspec" after INIT, `RAW` and `OUT` are not allocated and hold no values, and
`LATCH`, `DEADLINE`, `CD_DIV`, `W_FMT`, `W_FILT`, `CDBUF`, `CDOUT` keep what they held before, which after a TEARDOWN is
what the last context left (DESIGN CHOICE, log entry 26). -/
def execInit (s : State) : Out :=
  if s.life = .uninit then
    .next
      (({ s with
          mem := (s.mem.freeStreams s.cfg.fmtDefault).putVoltab (volumeTable s.cfg)
          fmt := s.cfg.fmtDefault
          handlers := .all []
          pos := .all 0
          filt := .all Slot.empty
          cdVolL := 0xFFFF
          cdVolR := 0xFFFF
          accOvf := false
          life := .inited }).respond (wordOf .init) .ok)
  else raiseStatus (wordOf .init) .notReady s

/-- The fresh stream buffers of RESET step 3 (R231): zeros of the stream's size and, for `OUT[s]`, of the type `FMT`
selects. -/
def freshBuffers (s : State) : Memory :=
  { s.mem with
    raw := ⟨List.replicate (streamSize s .effects) 0, List.replicate (streamSize s .music) 0,
      List.replicate (streamSize s .wavetable) 0⟩
    out := ⟨Block.zeros s.fmt (streamSize s .effects), Block.zeros s.fmt (streamSize s .music),
      Block.zeros s.fmt (streamSize s .wavetable)⟩ }

/-- The first deadlines, one latch from now (R231 step 3). -/
def firstDeadlines (s : State) : PerStream Time :=
  ⟨laterBy s.now s.latches.effects s.draws, laterBy s.now s.latches.music (s.draws + 1),
   laterBy s.now s.latches.wavetable (s.draws + 2)⟩

/-- Step 3 of RESET (R231): fresh streams, timers, empty slots, volumes and flags at their initial values. -/
def freshStreams (s : State) : State :=
  { s with
    mem := freshBuffers s
    pos := .all 0
    handlers := .all []
    latch := s.latches
    deadline := firstDeadlines s
    ten := .all true
    filt := .all Slot.empty
    cdVolL := 0xFFFF
    cdVolR := 0xFFFF
    accOvf := false
    life := .active
    draws := s.draws + 3 }

/-- The body of RESET from its step 1 (R231): the old timers off and the old streams freed, then either the failed allocation with the stop of the
worker, or fresh streams and the availability check. -/
def resetBody (w : Word) (s : State) : State :=
  let t := { s with ten := .all false, mem := s.mem.freeStreams s.fmt }
  if s.allocOk then checkBody w (freshStreams t) else stopBody .resetFailed w t

/-- RESET (R231). -/
def execReset (s : State) : Out :=
  if s.life = .uninit then raiseStatus (wordOf .reset) .notReady s else .next (resetBody (wordOf .reset) s)

/-- SETFMT (R232): a change of format is a reset. -/
def execSetfmt (f : Fmt) (s : State) : Out :=
  if s.life = .uninit then raiseStatus (wordOf (.setfmt f)) .notReady s
  else if f = s.fmt then .next (s.respond (wordOf (.setfmt f)) .ok)
  else .next (resetBody (wordOf (.setfmt f)) { s with fmt := f })

/-- TEARDOWN (R233), legal in every `LIFE` state. -/
def execTeardown (s : State) : Out := .next (stopBody .teardown (wordOf .teardown) s)

end Sys2Proof.Machine
end

