-- ==== Sys2Proof/Machine/Dispatch.lean ====
section
/-! DEFINITION. One arm per operation of the opcode table, each one direct call of its meaning. -/

namespace Sys2Proof.Machine

def exec (i : Instr) (s : State) : Host.Outcome State Fault Refusal :=
  match i with
  | .init => Sys2Proof.Machine.execInit s
  | .reset => Sys2Proof.Machine.execReset s
  | .setfmt f => Sys2Proof.Machine.execSetfmt f s
  | .teardown => Sys2Proof.Machine.execTeardown s
  | .regh st cb ctx => Sys2Proof.Machine.execRegh st cb ctx s
  | .tick st => Sys2Proof.Machine.execTick st s
  | .speedchg => Sys2Proof.Machine.execSpeedchg s
  | .setcdvol left right => Sys2Proof.Machine.execSetcdvol left right s
  | .setfilt k cb ctx => Sys2Proof.Machine.execSetfilt k cb ctx s
  | .cdcheck => Sys2Proof.Machine.execCdcheck s
  | .cdstart => Sys2Proof.Machine.execCdstart s
  | .cdstop => Sys2Proof.Machine.execCdstop s
  | .flush st => Sys2Proof.Machine.execFlush st s
  | .cdsig => Sys2Proof.Machine.execCdsig s
  | .timeadv t => Sys2Proof.Machine.execTimeadv t s
  | .wready => Sys2Proof.Machine.execWready s
  | .wwake => Sys2Proof.Machine.execWwake s
  | .wmix => Sys2Proof.Machine.execWmix s

end Sys2Proof.Machine
end

