-- ==== Sys2Proof/Machine/Schedule.lean ====
section
/-! DEFINITION. Whose turn it is (rules R11, R67, R90, R153, R155, R258): the head of the agenda says who steps next. -/

namespace Sys2Proof.Machine

/-- The worker's next step; with none it is suspended (R180 to R182, R267). -/
def workerTurn (s : State) : Out :=
  match s.wState with
  | .starting => exec .wready s
  | .waiting => exec .wwake s
  | .mixing => exec .wmix s
  | .absent => .next s
  | .exited => .next s

/-- The main path waits inside a command, so it takes neither a word nor a tick (R90, R155): it goes on where its wait has
ended, and else the worker steps. -/
def waitTurn (s : State) : Out := if mainReady s then .next (resume s) else workerTurn s

/-- A command word on the port (R90, R94, R96): the decoded command, or `IllegalCommand`. -/
def acceptWord (w : Word) (s : State) : Out :=
  match decode w with
  | .instr i => exec i s
  | .illegal _ => raiseStatus w .illegalCommand s

/-- A move of the environment (R43, R97, R150). -/
def environmentTurn (m : EnvMove) (s : State) : Out :=
  match m with
  | .now t => exec (.timeadv t) s
  | .timeHz n =>
    if s.cfg.rate.effects ≤ n ∧ s.cfg.rate.music ≤ n ∧ s.cfg.rate.wavetable ≤ n then
      .next { s with cfg := { s.cfg with timeHz := n } }
    else .refused .timeBaseTooSmall
  | .allocOk b => .next { s with allocOk := b }
  | .drive d x => if d < s.cfg.cdromNum then .next { s with drives := s.drives.set d x } else .refused .noSuchDrive
  | .source v => .next { s with answers := { s.answers with source := s.answers.source ++ [v] } }
  | .decode r blk => .next { s with answers := { s.answers with decode := s.answers.decode ++ [(r, blk)] } }
  | .filter x => .next { s with answers := { s.answers with filter := s.answers.filter ++ [x] } }

/-- No turn is prescribed (log entry 1): a command that waits goes on, else the worker takes the steps it has, else due
ticks fire, else the block is idle. -/
def restTurn (s : State) : Out :=
  if s.main ≠ .idle then waitTurn s
  else if workerEnabled s then workerTurn s
  else .next (fireDue s)

/-- The next step of the block. A word or a tick at the head of the agenda stays there while the main path waits. -/
def takeTurn (s : State) : Out :=
  match s.agenda with
  | [] => restTurn s
  | .command w :: rest => if s.main = .idle then acceptWord w { s with agenda := rest } else waitTurn s
  | .timer :: rest => if s.main = .idle then .next (fireDue { s with agenda := rest }) else waitTurn s
  | .main :: rest => .next (resume { s with agenda := rest })
  | .worker :: rest => workerTurn { s with agenda := rest }
  | .env m :: rest => environmentTurn m { s with agenda := rest }

end Sys2Proof.Machine
end

