-- ==== Sys2Proof/Machine/Step.lean ====
section
/-! DEFINITION. One step of the machine, and how the host puts a command word on the command port. -/

namespace Sys2Proof.Machine

/-- One step: the turn at the head of the agenda. -/
def step (s : State) : Host.Outcome State Fault Refusal := takeTurn s

/-- The state with the command word whose bits are `w` next on the command port, and the main path free to take it
(R90). The block fetches no instruction (R22): the host issues every word. -/
def State.withFetchWord (s : State) (nbits w : Nat) : State :=
  { s with main := .idle, agenda := .command (BitVec.ofNat 64 (w % 2 ^ nbits)) :: s.agenda }

end Sys2Proof.Machine
end

