-- ==== Sys2Proof/Machine/Outputs.lean ====
section
/-! DEFINITION. The level outputs with their codes (rules R23, R25, R26, R36, R44) and the bytes of a delivered buffer
where a platform serialises it (rule R62). -/

namespace Sys2Proof.Machine

/-- The code of a `LIFE` state (R23). -/
def Life.code : Life → BitVec 2
  | .uninit => 0
  | .inited => 1
  | .active => 2
  | .failed => 3

/-- The code of a status (R25, R251). -/
def Status.code : Status → BitVec 4
  | .ok => 0
  | .capacityExceeded => 1
  | .resourceExhausted => 2
  | .filterBusy => 3
  | .illegalCommand => 4
  | .notReady => 5

/-- The code of a worker phase (R36). -/
def WState.code : WState → BitVec 3
  | .absent => 0
  | .starting => 1
  | .waiting => 2
  | .mixing => 3
  | .exited => 4

/-- The level outputs (R44). -/
def State.outputs (s : State) : Outputs where
  status := s.status.code
  flags := if s.accOvf then 1 else 0
  life := s.life.code
  wState := s.wState.code
  pos := s.pos
  cdVolL := s.cdVolL
  cdVolR := s.cdVolR

/-- The bytes of one element, least significant first (R62). -/
def bytesOf (width : Nat) (v : Nat) : List (BitVec 8) := (List.range width).map fun i => BitVec.ofNat 8 (v / 2 ^ (8 * i))

/-- The bytes of a delivered buffer (R62), little-endian for both formats. -/
def Block.bytes : Block → List (BitVec 8)
  | .int16 xs => xs.flatMap fun x => bytesOf 2 x.toNat
  | .float xs => xs.flatMap fun x => bytesOf 4 x.toNat

end Sys2Proof.Machine
end

