-- ==== Sys2Proof/Machine/Pseudo.lean ====
section
/-! DEFINITION. The pseudo-operations and their expansions (rule R98). -/

namespace Sys2Proof.Machine

/-- The pseudo-operations of R98: CLRFILT, PERIOD, SETFILT!, CDRESTART. -/
inductive Pseudo where
  | clrfilt (k : Kind)
  | period (st : Stream)
  | replaceFilt (k : Kind) (cb : Cb) (ctx : Ctx)
  | cdrestart
deriving DecidableEq, Repr

/-- The commands a pseudo-operation stands for (R98); PERIOD depends on where the stream is in its period. -/
def Pseudo.expand (s : State) : Pseudo → List Instr
  | .clrfilt k => [.setfilt k 0 0]
  | .period st => List.replicate (s.cfg.bufLen.get st - s.pos.get st) (.tick st)
  | .replaceFilt k cb ctx => [.setfilt k 0 0, .setfilt k cb ctx]
  | .cdrestart => [.cdstop, .cdstart]

end Sys2Proof.Machine
end

