-- ==== Sys2Proof/Safety.lean ====
section
/-! DEFINITION. The terms claims are stated in: which commands a `LIFE` state accepts (rule R234), the invariants of rule
R47 with those of rules R32 and R151, quiescence (rule R192), and what an operation leaves unchanged. -/

namespace Sys2Proof.Machine

/-- The cells "acts" of the table of R234, for the encoded commands. -/
def accepts (l : Life) : Instr → Bool
  | .init => l == .uninit
  | .reset | .setfmt _ | .setcdvol _ _ | .setfilt _ _ _ => l != .uninit
  | .regh _ _ _ | .tick _ | .speedchg | .cdcheck | .cdstart => l == .active
  | .teardown | .cdstop => true
  | .flush _ | .cdsig | .timeadv _ | .wready | .wwake | .wmix => true

/-- The main path waits inside a RESET whose allocation failed: the streams are freed, `LIFE` is still to change
(R231 step 2). -/
def freeing (s : State) : Bool :=
  match s.main with
  | .idle => false
  | .awaitReady _ => false
  | .awaitExit .resetFailed _ => true
  | .awaitExit .done _ => false
  | .awaitExit .teardown _ => false

/-- How the worker and the main path stand to each other (R32 to R36, R171, R172; I-c, I-f, I-g of R47). -/
def coupled (s : State) : Prop :=
  match s.main with
  | .idle =>
    s.startEvt = false ∧
    ((s.cdEnable = false ∧ s.wState = .absent) ∨
     (s.cdEnable = true ∧ s.run = true ∧ s.life = .active ∧ (s.wState = .waiting ∨ s.wState = .mixing)))
  | .awaitReady _ =>
    s.cdEnable = false ∧ s.run = true ∧ s.life = .active ∧ s.sig = false ∧
    ((s.wState = .starting ∧ s.startEvt = false) ∨ (s.wState = .waiting ∧ s.startEvt = true))
  | .awaitExit _ _ =>
    s.cdEnable = true ∧ s.run = false ∧ s.life = .active ∧ s.startEvt = false ∧
    ((s.sig = true ∧ (s.wState = .waiting ∨ s.wState = .mixing)) ∨ (s.sig = false ∧ s.wState = .exited))

/-- The pass in flight (R46 (b), R183): outside MIXING there is none; past MIX.clear the block holds its elements. -/
def passOk (s : State) : Prop :=
  (s.wState ≠ .mixing → s.mixPos = .clear) ∧
  (∀ d, s.mixPos = .drive d → d < s.cfg.cdromNum) ∧
  (s.mixPos ≠ .clear → s.mem.cdout.length = cdSize s)

/-- The stream buffers of a live context hold their elements (R29, R30). -/
def streamsOk (s : State) : Prop :=
  ∀ st, (s.mem.raw.get st).length = streamSize s st ∧ (s.mem.out.get st).length = streamSize s st

/-- I-a of R47: every element of `OUT[s]` has the type `FMT` selects, every element of `CDOUT` the type `W_FMT` selects. -/
def formatsOk (s : State) : Prop := (∀ st, (s.mem.out.get st).fmt = s.fmt) ∧ s.mem.cdout.fmt = s.wFmt

/-- The invariant of the block: R47 (I-a), (I-c) to (I-g), with R8, R27, R32, R42, R60 and R151. -/
structure Inv (s : State) : Prop where
  /-- R8, R211 -/
  cfg : s.cfg.wf = true
  /-- R60 -/
  mem : s.mem.wf s.cfg = true
  /-- R47 (I-e) -/
  pos : ∀ st, s.pos.get st < s.cfg.bufLen.get st
  /-- R47 (I-d) -/
  count : ∀ st, (s.handlers.get st).length ≤ 8
  /-- R28 -/
  named : ∀ st, ∀ h ∈ s.handlers.get st, h.cb ≠ 0
  /-- R43 -/
  slots : s.drives.length = s.cfg.cdromNum
  /-- R42 -/
  table : s.life ≠ .uninit → s.mem.voltab = volumeTable s.cfg
  /-- R151 -/
  timers : ∀ st, s.ten.get st = (decide (s.life = .active) && !freeing s)
  /-- R29, R30 -/
  streams : s.life = .active → freeing s = false → streamsOk s
  /-- R47 (I-c), (I-f), (I-g) -/
  worker : coupled s
  /-- R32 -/
  divider : s.wState ≠ .absent → 1 ≤ s.cdDiv ∧ s.cdDiv ≤ s.cfg.cdN
  /-- R183 -/
  pass : passOk s
  /-- R47 (I-a) -/
  formats : formatsOk s

/-- The worker is quiescent (R192). -/
def quiescent (s : State) : Bool := decide (s.wState = .absent) || (decide (s.wState = .waiting) && !s.sig)

/-- A run may end here (R192): a quiescent worker and an idle main path with no tick due. -/
def finished (s : State) : Bool := quiescent s && decide (s.main = .idle) && (nextDue s).isNone

/-- The events that deliver to a sink, oldest first (R79). -/
def deliveries (h : List Event) : List (Kind × Block) :=
  (h.filterMap fun e =>
    match e with
    | .deliver k b => some (k, b)
    | _ => none).reverse

/-- The oracle calls with their arguments and answers, oldest first (R76 to R78, R80). -/
def oracleCalls (h : List Event) : List Event :=
  (h.filter fun e =>
    match e with
    | .source _ _ _ | .decode _ _ _ | .filter _ _ _ _ => true
    | _ => false).reverse

/-- The answers to command words in the history (R80). -/
def responses (h : List Event) : List Event :=
  h.filter fun e =>
    match e with
    | .response _ _ => true
    | _ => false

/-- The same event, of a command whose word is `w` (R90). -/
def Event.inCommand (w : Word) (e : Event) : Event :=
  match e with
  | .response _ st => .response w st
  | _ => e

/-- The same wait, of a command whose word is `w` (R171, R172). -/
def MainPhase.inCommand (w : Word) : MainPhase → MainPhase
  | .idle => .idle
  | .awaitReady _ => .awaitReady w
  | .awaitExit k _ => .awaitExit k w

/-- `n` steps W.MIX with nothing in between: a pass has `P_CDROM_NUM + 2` of them (R182, R183). -/
def repeatWmix : Nat → State → Out
  | 0, s => .next s
  | n + 1, s =>
    match exec .wmix s with
    | .next t => repeatWmix n t
    | .fault r => .fault r
    | .refused r => .refused r

/-- A list of operations one after another, for the expansions of R98. -/
def runAll : List Instr → State → Out
  | [], s => .next s
  | i :: is, s =>
    match exec i s with
    | .next t => runAll is t
    | .fault r => .fault r
    | .refused r => .refused r

/-- The exact integer sum of the contributions to element `i` (R123). -/
def exactSum (vs : List (List I32)) (i : Nat) : Int := (vs.map fun v => (v.getD i 0).toInt).sum

end Sys2Proof.Machine
end

