-- ==== Sys2Proof/Certificates/Slice0/Obligations.lean ====
section
/-! DEFINITION. The statements for the provers. A frame is written as a record update: `{ t with f := s.f, … } = s` says
that `t` and `s` agree in every field but the listed ones. -/

open Sys2Proof Sys2Proof.Machine

/-! ## Encoding -/

/-- R91 to R94: decoding the command word of a well-formed operation gives the operation back, with every operand at
every value. -/
def Obligations.DecodeInvertsEncode : Prop :=
  ∀ (i : Instr) (w : Word), i.wf = true → encode i = some w → decode w = .instr i

/-- R93, R94: a word that decodes is the command word of the operation it decodes to, so each word has one meaning and no
bit of it is dropped. -/
def Obligations.EncodeInvertsDecode : Prop :=
  ∀ (w : Word) (i : Instr), decode w = .instr i → i.wf = true ∧ encode i = some w

/-- R94: the three tests of decoding in their order. -/
def Obligations.DecodeRefusesByThreeTests : Prop :=
  ∀ w : Word,
    ((∀ r ∈ opcodeRows, r.op ≠ opOf w) → decode w = .illegal .reservedOp) ∧
    (∀ r ∈ opcodeRows, r.op = opOf w → w &&& r.mask ≠ r.pat → decode w = .illegal .mustBeZero) ∧
    (opOf w = 0x10 → w &&& 0xFFCFF00000000000 = 0x1000000000000000 → selOf w = 3 ∨ cbOf w = 0 →
      decode w = .illegal .constraint) ∧
    (opOf w = 0x11 → w &&& 0xFFCFFFFFFFFFFFFF = 0x1100000000000000 → selOf w = 3 →
      decode w = .illegal .constraint) ∧
    (∀ r ∈ opcodeRows, r.op = opOf w → w &&& r.mask = r.pat →
      (opOf w = 0x10 → selOf w ≠ 3 ∧ cbOf w ≠ 0) → (opOf w = 0x11 → selOf w ≠ 3) → ∃ i, decode w = .instr i)

/-- A few command words of R93, R97 and their meanings. -/
def Obligations.SampleWordsDecode : Prop :=
  decode 0x0310000000000000 = .instr (.setfmt .float) ∧
  decode 0x10200FFFFFFFFFFF = .instr (.regh .wavetable 0xFFF 0xFFFFFFFF) ∧
  decode 0x1110000000000000 = .instr (.tick .music) ∧
  decode 0x200000008000FFFF = .instr (.setcdvol 0x8000 0xFFFF) ∧
  decode 0x21300005000000A0 = .instr (.setfilt .cd 5 0xA0) ∧
  decode 0x3200000000000000 = .instr .cdstop ∧
  decode 0x1000100100000000 = .illegal .mustBeZero

/-! ## Steps -/

/-- R90, R94: the command word at the head of the agenda, with the main path free, is decoded and executed; the word is
taken off the port. -/
def Obligations.StepRunsDecodedCommand : Prop :=
  ∀ (s : State) (w : Word) (rest : List Turn) (i : Instr),
    s.agenda = .command w :: rest → s.main = .idle → decode w = .instr i → step s = exec i { s with agenda := rest }

/-- R95, R153, R180 to R182: a turn of the worker executes the step of its phase, and a move of `NOW` is TIMEADV. R43, R8,
R150: a move of the environment writes the input it names, `alloc_ok`, one drive's inputs, `P_TIME_HZ` or the next answer
of an oracle, and nothing else. That a turn of a worker with no step changes nothing (log entry 10), that answers may be
fixed in advance (log entry 7), and that a `P_TIME_HZ` below a rate and a missing drive slot are refused (log entry 15)
are the model's choice. -/
def Obligations.StepRunsUnencodedOperations : Prop :=
  ∀ (s : State) (rest : List Turn),
    (s.agenda = .worker :: rest →
      (s.wState = .starting → step s = exec .wready { s with agenda := rest }) ∧
      (s.wState = .waiting → step s = exec .wwake { s with agenda := rest }) ∧
      (s.wState = .mixing → step s = exec .wmix { s with agenda := rest }) ∧
      (s.wState = .absent ∨ s.wState = .exited → step s = .next { s with agenda := rest })) ∧
    (∀ t, s.agenda = .env (.now t) :: rest → step s = exec (.timeadv t) { s with agenda := rest }) ∧
    (∀ b, s.agenda = .env (.allocOk b) :: rest → step s = .next { s with agenda := rest, allocOk := b }) ∧
    (∀ d x, s.agenda = .env (.drive d x) :: rest →
      (d < s.cfg.cdromNum → step s = .next { s with agenda := rest, drives := s.drives.set d x }) ∧
      (s.cfg.cdromNum ≤ d → step s = .refused .noSuchDrive)) ∧
    (∀ n, s.agenda = .env (.timeHz n) :: rest →
      ((∀ st, s.cfg.rate.get st ≤ n) →
        step s = .next { s with agenda := rest, cfg := { s.cfg with timeHz := n } }) ∧
      ((∃ st, n < s.cfg.rate.get st) → step s = .refused .timeBaseTooSmall)) ∧
    (∀ v, s.agenda = .env (.source v) :: rest →
      step s = .next { s with agenda := rest, answers := { s.answers with source := s.answers.source ++ [v] } }) ∧
    (∀ r blk, s.agenda = .env (.decode r blk) :: rest →
      step s = .next { s with agenda := rest, answers := { s.answers with decode := s.answers.decode ++ [(r, blk)] } }) ∧
    (∀ x, s.agenda = .env (.filter x) :: rest →
      step s = .next { s with agenda := rest, answers := { s.answers with filter := s.answers.filter ++ [x] } })

/-- R96: every reserved operation code is illegal, and an illegal word changes nothing but `STATUS` (with the response in
the history). -/
def Obligations.IllegalWordsChangeOnlyStatus : Prop :=
  (∀ w : Word,
    opOf w ∉ ([0x01, 0x02, 0x03, 0x04, 0x10, 0x11, 0x12, 0x20, 0x21, 0x30, 0x31, 0x32] : List (BitVec 8)) →
    decode w = .illegal .reservedOp) ∧
  (∀ (s : State) (w : Word) (rest : List Turn) (r : Illegal),
    s.agenda = .command w :: rest → s.main = .idle → decode w = .illegal r →
    step s = .next { s with agenda := rest, status := .illegalCommand,
                            hist := .response w .illegalCommand :: s.hist })

/-- R90, R155: while the main path waits inside a command, a word or a timer turn stays where it is: no step takes it, no
tick advances a position, and no response names any word but the one that waits. That the turn stays at the head of
the agenda is the model's way to say so (log entry 1). -/
def Obligations.WaitingMainPathTakesNoWordAndNoTick : Prop :=
  ∀ (s t : State) (x : Turn) (rest : List Turn),
    (∃ w, x = .command w) ∨ x = .timer → s.agenda = x :: rest → s.main ≠ .idle → step s = .next t →
    t.agenda = s.agenda ∧ t.pos = s.pos ∧ t.deadline = s.deadline ∧
    ∀ w st, t.hist.head? = some (.response w st) → t.hist ≠ s.hist →
      s.main = .awaitReady w ∨ ∃ k, s.main = .awaitExit k w

/-! ## Statuses -/

/-- R234, R250, R258: the acceptance table. A command that `LIFE` does not accept answers `NotReady` and changes nothing
else; a command that is accepted answers a next state and does not answer `NotReady`. -/
def Obligations.LifeDecidesAcceptance : Prop :=
  ∀ (i : Instr) (s : State) (w : Word), encode i = some w →
    (accepts s.life i = false →
      exec i s = .next { s with status := .notReady, main := .idle, hist := .response w .notReady :: s.hist }) ∧
    (accepts s.life i = true → ∃ t, exec i s = .next t ∧ t.hist.head? ≠ some (.response w .notReady))

/-- R25, R250: the operations that are no commands write neither `STATUS` nor `LIFE`, and no response. -/
def Obligations.OnlyCommandsWriteStatus : Prop :=
  ∀ (i : Instr) (s t : State), encode i = none → exec i s = .next t →
    t.status = s.status ∧ t.life = s.life ∧
    ∀ w st, (Event.response w st ∈ t.hist ↔ Event.response w st ∈ s.hist)

/-- R26, R125, R260: `ACC_OVF` is sticky under every operation but INIT, RESET and SETFMT (which resets), and only a
flush sets it. -/
def Obligations.OverflowFlagIsSticky : Prop :=
  ∀ (i : Instr) (s t : State), i ≠ .init → i ≠ .reset → (∀ f, i ≠ .setfmt f) → exec i s = .next t →
    (s.accOvf = true → t.accOvf = true) ∧
    ((∀ st, i ≠ .tick st ∧ i ≠ .flush st) → t.accOvf = s.accOvf)

/-! ## Lifecycle -/

/-- R230: INIT creates the context, builds the table, and leaves every element it does not name and R48 does not call
"unspec" after it; with a context it answers `NotReady`. What it leaves in the unspecified ones is part of
PowerOnState. -/
def Obligations.InitCreatesContext : Prop :=
  ∀ s : State,
    (s.life ≠ .uninit → exec .init s =
      .next { s with status := .notReady, main := .idle, hist := .response (wordOf .init) .notReady :: s.hist }) ∧
    (s.life = .uninit → ∃ t, exec .init s = .next t ∧
    t.life = .inited ∧ t.status = .ok ∧ t.fmt = s.cfg.fmtDefault ∧
    (∀ i, i < 256 → t.mem.read .voltab i = some (.f64 (Num.vol s.cfg i))) ∧
    (∀ st, t.pos.get st = 0 ∧ t.handlers.get st = []) ∧ (∀ k, t.filt.get k = Slot.empty) ∧
    t.cdVolL = 0xFFFF ∧ t.cdVolR = 0xFFFF ∧ t.accOvf = false ∧ t.main = .idle ∧
    t.hist = .response (wordOf .init) .ok :: s.hist ∧
    { t with life := s.life, status := s.status, fmt := s.fmt, mem := s.mem, pos := s.pos, handlers := s.handlers,
             filt := s.filt, cdVolL := s.cdVolL, cdVolR := s.cdVolR, accOvf := s.accOvf, main := s.main,
             hist := s.hist, latch := s.latch, deadline := s.deadline, cdDiv := s.cdDiv, wFmt := s.wFmt,
             wFilt := s.wFilt } = s)

/-- R231: a RESET that finds memory makes fresh streams, timers and slots; its availability check leaves the worker, starts
one, or begins the stop of the one there is. The 64-bit times are those that fit (log entry 12 for the others). -/
def Obligations.ResetMakesFreshStreams : Prop :=
  ∀ s : State, s.life ≠ .uninit → s.allocOk = true →
    (∀ st, s.cfg.rate.get st ≠ 0 ∧ s.now.toNat + s.cfg.timeHz / s.cfg.rate.get st < 2 ^ 64) →
    ∃ t, exec .reset s = .next t ∧ t.life = .active ∧
    (∀ st, t.pos.get st = 0 ∧ t.handlers.get st = [] ∧ t.ten.get st = true ∧
      (t.latch.get st).toNat = s.cfg.timeHz / s.cfg.rate.get st ∧
      (t.deadline.get st).toNat = s.now.toNat + s.cfg.timeHz / s.cfg.rate.get st ∧
      t.mem.raw.get st = List.replicate (streamSize s st) 0 ∧
      t.mem.out.get st = Block.zeros s.fmt (streamSize s st)) ∧
    (∀ k, t.filt.get k = Slot.empty) ∧ t.cdVolL = 0xFFFF ∧ t.cdVolR = 0xFFFF ∧ t.accOvf = false ∧
    (if 0 < enabledDrives s ∧ s.cdEnable = false then
      t.wState = .starting ∧ t.run = true ∧ t.sig = false ∧ t.startEvt = false ∧ t.cdDiv = s.cfg.cdN ∧
      t.main = .awaitReady (wordOf .reset) ∧ t.status = s.status
     else if enabledDrives s = 0 ∧ s.cdEnable = true then
      t.run = false ∧ t.sig = true ∧ t.main = .awaitExit .done (wordOf .reset) ∧ t.status = s.status ∧
      t.wState = s.wState ∧ t.startEvt = s.startEvt ∧ t.cdDiv = s.cdDiv ∧ t.mixPos = s.mixPos
     else
      t.status = .ok ∧ t.main = .idle ∧ t.hist.head? = some (.response (wordOf .reset) .ok) ∧
      t.run = s.run ∧ t.sig = s.sig ∧ t.wState = s.wState ∧ t.startEvt = s.startEvt ∧ t.cdDiv = s.cdDiv ∧
      t.mixPos = s.mixPos) ∧
    (∀ sp i, (∀ st, sp ≠ .raw st ∧ sp ≠ .out st) → t.mem.read sp i = s.mem.read sp i) ∧
    { t with life := s.life, pos := s.pos, handlers := s.handlers, ten := s.ten, latch := s.latch,
             deadline := s.deadline, mem := s.mem, filt := s.filt, cdVolL := s.cdVolL, cdVolR := s.cdVolR,
             accOvf := s.accOvf, wState := s.wState, run := s.run, sig := s.sig, startEvt := s.startEvt,
             cdDiv := s.cdDiv, mixPos := s.mixPos, main := s.main, status := s.status, draws := s.draws,
             hist := s.hist } = s

/-- R231 steps 1 and 2, R253: a RESET whose allocation fails turns the timers off, frees the old streams, and either ends
in `FAILED` with `ResourceExhausted`, or, where a worker exists, first begins its stop. That a freed buffer holds no
values is the model's reading (log entry 20). -/
def Obligations.FailedAllocationAbortsReset : Prop :=
  ∀ s : State, s.life ≠ .uninit → s.allocOk = false →
    (s.cdEnable = false →
      exec .reset s = .next { s with ten := .all false, handlers := .all [], life := .failed,
                                     mem := { s.mem with raw := .all [], out := .all (Block.zeros s.fmt 0) },
                                     status := .resourceExhausted, main := .idle,
                                     hist := .response (wordOf .reset) .resourceExhausted :: s.hist }) ∧
    (s.cdEnable = true →
      exec .reset s = .next { s with ten := .all false, run := false, sig := true,
                                     mem := { s.mem with raw := .all [], out := .all (Block.zeros s.fmt 0) },
                                     main := .awaitExit .resetFailed (wordOf .reset), hist := .setSig :: s.hist })

/-- R232: SETFMT without a context answers `NotReady`; with the present format it does nothing; with the other one it
sets the format and gives the state RESET gives from there, the word of the command replaced in the wait and in the
events it adds. -/
def Obligations.FormatChangeIsAReset : Prop :=
  ∀ (s : State) (f : Fmt),
    (s.life = .uninit → exec (.setfmt f) s =
      .next { s with status := .notReady, main := .idle,
                     hist := .response (wordOf (.setfmt f)) .notReady :: s.hist }) ∧
    (s.life ≠ .uninit → f = s.fmt → exec (.setfmt f) s =
      .next { s with status := .ok, main := .idle, hist := .response (wordOf (.setfmt f)) .ok :: s.hist }) ∧
    (s.life ≠ .uninit → f ≠ s.fmt → ∃ u es,
      exec .reset { s with fmt := f } = .next u ∧ u.fmt = f ∧ u.hist = es ++ s.hist ∧
      exec (.setfmt f) s =
        .next { u with main := u.main.inCommand (wordOf (.setfmt f)),
                       hist := es.map (Event.inCommand (wordOf (.setfmt f))) ++ s.hist })

/-- R233: TEARDOWN with no worker empties the context at once, keeping the flag and the buffers; with a worker it first
begins the stop. -/
def Obligations.TeardownDestroysContext : Prop :=
  ∀ s : State,
    (s.cdEnable = false → ∃ t, exec .teardown s = .next t ∧ t.life = .uninit ∧ t.status = .ok ∧ t.main = .idle ∧
      (∀ st, t.ten.get st = false ∧ t.handlers.get st = []) ∧ (∀ k, t.filt.get k = Slot.empty) ∧
      t.hist = .response (wordOf .teardown) .ok :: s.hist ∧
      { t with life := s.life, status := s.status, main := s.main, ten := s.ten, handlers := s.handlers,
               filt := s.filt, hist := s.hist } = s) ∧
    (s.cdEnable = true → exec .teardown s =
      .next { s with run := false, sig := true, main := .awaitExit .teardown (wordOf .teardown),
                     hist := .setSig :: s.hist })

/-- R231 step 2, R233, R172 step 3: once the worker has exited, the main path releases it and finishes the command that
waited: `FAILED` with `ResourceExhausted` after a failed RESET, `UNINIT` after TEARDOWN. The wait as
a phase of the main path is the model's (log entry 8). -/
def Obligations.StopReleasesWorkerThenFinishes : Prop :=
  ∀ (s : State) (rest : List Turn) (k : AfterStop) (w : Word),
    s.agenda = .main :: rest → s.main = .awaitExit k w → s.wState = .exited → ∃ t, step s = .next t ∧
    t.wState = .absent ∧ t.sig = false ∧ t.startEvt = false ∧ t.cdEnable = false ∧ t.main = .idle ∧
    t.agenda = rest ∧ t.mem = s.mem ∧ t.accOvf = s.accOvf ∧ t.pos = s.pos ∧ t.run = s.run ∧
    (match k with
     | .done => t.status = .ok ∧ t.life = s.life ∧ t.handlers = s.handlers ∧ t.ten = s.ten ∧ t.filt = s.filt
     | .resetFailed =>
       t.status = .resourceExhausted ∧ t.life = .failed ∧ t.handlers = .all [] ∧ t.ten = s.ten ∧ t.filt = s.filt
     | .teardown =>
       t.status = .ok ∧ t.life = .uninit ∧ t.handlers = .all [] ∧ t.ten = .all false ∧ t.filt = .all Slot.empty) ∧
    t.hist = .response w t.status :: .clearStart :: .clearSig :: s.hist

/-! ## Registry and accumulator -/

/-- R120, R252: REGH appends the handler to its stream's list, or, with eight registered, answers `CapacityExceeded` and
leaves the list; without streams it answers `NotReady`. -/
def Obligations.RegisterAppendsUpToEight : Prop :=
  ∀ (s : State) (st : Sys2Proof.Stream) (cb : Cb) (ctx : Ctx),
    (s.life ≠ .active → exec (.regh st cb ctx) s =
      .next { s with status := .notReady, main := .idle,
                     hist := .response (wordOf (.regh st cb ctx)) .notReady :: s.hist }) ∧
    (s.life = .active → (s.handlers.get st).length ≠ 8 → ∃ t, exec (.regh st cb ctx) s = .next t ∧
      t.handlers.get st = s.handlers.get st ++ [⟨cb, ctx⟩] ∧
      (∀ st', st' ≠ st → t.handlers.get st' = s.handlers.get st') ∧ t.status = .ok ∧ t.main = .idle ∧
      t.hist = .response (wordOf (.regh st cb ctx)) .ok :: s.hist ∧
      { t with handlers := s.handlers, status := s.status, main := s.main, hist := s.hist } = s) ∧
    (s.life = .active → (s.handlers.get st).length = 8 → exec (.regh st cb ctx) s =
      .next { s with status := .capacityExceeded, main := .idle,
                     hist := .response (wordOf (.regh st cb ctx)) .capacityExceeded :: s.hist })

/-- R121: a TICK advances the position of its stream; on the last place of the period it flushes at the full position and
wraps to 0. A tick touches no other stream's position. -/
def Obligations.TickAdvancesOrFlushes : Prop :=
  ∀ (s : State) (st : Sys2Proof.Stream), s.life = .active →
    (s.pos.get st + 1 ≠ s.cfg.bufLen.get st → exec (.tick st) s =
      .next { s with pos := s.pos.set st (s.pos.get st + 1), status := .ok, main := .idle,
                     hist := .response (wordOf (.tick st)) .ok :: .tick st :: s.hist }) ∧
    (s.pos.get st + 1 = s.cfg.bufLen.get st → ∃ u,
      exec (.flush st) { s with pos := s.pos.set st (s.cfg.bufLen.get st), hist := .tick st :: s.hist } = .next u ∧
      exec (.tick st) s =
        .next { u with pos := s.pos.set st 0, status := .ok, main := .idle,
                       hist := .response (wordOf (.tick st)) .ok :: u.hist })

/-- R122, R123, R124, R126 and testable property 1: with its handlers answering the vectors `vs`, a flush calls each
handler once, in registration order, with its own `CB`, `CTX` and the period length; one that ends with `ACC_OVF` clear
leaves in the accumulator the exact integer sum of the contributions, clamped in integer mode; it converts every element
and delivers the converted buffer once. -/
def Obligations.FlushDeliversExactSums : Prop :=
  ∀ (s : State) (st : Sys2Proof.Stream) (vs more : List (List I32)),
    vs.length = (s.handlers.get st).length → (∀ v ∈ vs, v.length = streamSize s st) →
    s.answers.source = vs ++ more → ∃ t, exec (.flush st) s = .next t ∧
    oracleCalls t.hist = oracleCalls s.hist ++
      List.zipWith (fun h v => Event.source h (s.cfg.bufLen.get st) v) (s.handlers.get st) vs ∧
    deliveries t.hist = deliveries s.hist ++ [(st.kind, t.mem.out.get st)] ∧ t.answers.source = more ∧
    (t.accOvf = false → ∀ i, i < streamSize s st → ∃ r : I32,
      t.mem.read (.raw st) i = some (.int32 r) ∧
      match s.fmt with
      | .int16 =>
        r.toInt = Num.clamp16 (exactSum vs i) ∧
        t.mem.read (.out st) i = some (.int16 (BitVec.ofInt 16 (Num.clamp16 (exactSum vs i))))
      | .float => r.toInt = exactSum vs i ∧ t.mem.read (.out st) i = some (.f32 (Num.i2f s.cfg.num r)))

/-- R123, R125 and the sizing remark of §4.1: up to eight sources of 16-bit range never set `ACC_OVF`. -/
def Obligations.EightSixteenBitSourcesNeverOverflow : Prop :=
  ∀ (s : State) (st : Sys2Proof.Stream) (vs more : List (List I32)),
    vs.length = (s.handlers.get st).length → (∀ v ∈ vs, v.length = streamSize s st) →
    s.answers.source = vs ++ more → vs.length ≤ 8 →
    (∀ v ∈ vs, ∀ x ∈ v, -32768 ≤ x.toInt ∧ x.toInt ≤ 32767) → s.accOvf = false →
    ∃ t, exec (.flush st) s = .next t ∧ t.accOvf = false

/-- R121, R122, R123, R64: a flush answers for whatever its sources answer, calls each handler once in registration
order with its own `CB` and `CTX` and the period length and no other oracle, writes no buffer but the two of its stream,
and leaves every register but the flag, and for EFFECTS the divider and the token. -/
def Obligations.FlushTouchesOneStream : Prop :=
  ∀ (s : State) (st : Sys2Proof.Stream), ∃ t, exec (.flush st) s = .next t ∧
    (∃ vs : List (List I32), vs.length = (s.handlers.get st).length ∧ (∀ v ∈ vs, v.length = streamSize s st) ∧
      oracleCalls t.hist = oracleCalls s.hist ++
        List.zipWith (fun h v => Event.source h (s.cfg.bufLen.get st) v) (s.handlers.get st) vs) ∧
    (∀ sp i, sp ≠ .raw st → sp ≠ .out st → t.mem.read sp i = s.mem.read sp i) ∧
    (st ≠ .effects → t.cdDiv = s.cdDiv ∧ t.sig = s.sig) ∧
    (t.mem.raw.get st).length = streamSize s st ∧ (t.mem.out.get st).length = streamSize s st ∧
    (t.mem.out.get st).fmt = s.fmt ∧
    t.answers.decode = s.answers.decode ∧ t.answers.filter = s.answers.filter ∧
    { t with mem := s.mem, accOvf := s.accOvf, cdDiv := s.cdDiv, sig := s.sig, answers := s.answers,
             draws := s.draws, hist := s.hist } = s

/-- R98, R27, R121: the ticks of PERIOD run a live stream to its next flush: the position is 0 again and exactly one
buffer of that stream has been delivered. -/
def Obligations.PeriodRunsToOneFlush : Prop :=
  ∀ (s : State) (st : Sys2Proof.Stream), s.life = .active → s.pos.get st < s.cfg.bufLen.get st →
    ∃ t b, runAll (Pseudo.expand s (.period st)) s = .next t ∧ t.pos.get st = 0 ∧
      deliveries t.hist = deliveries s.hist ++ [(st.kind, b)] ∧ b.length = streamSize s st ∧ b.fmt = s.fmt

/-! ## Timers -/

/-- R152: SPEEDCHG recomputes the latches and leaves the deadlines, and answers `NotReady` without streams. -/
def Obligations.SpeedChangeKeepsDeadlines : Prop :=
  ∀ s : State,
    (s.life ≠ .active → exec .speedchg s =
      .next { s with status := .notReady, main := .idle, hist := .response (wordOf .speedchg) .notReady :: s.hist }) ∧
    (s.life = .active →
      (∀ st, s.cfg.rate.get st ≠ 0 ∧ s.cfg.timeHz / s.cfg.rate.get st < 2 ^ 64) → ∃ t, exec .speedchg s = .next t ∧
      (∀ st, (t.latch.get st).toNat = s.cfg.timeHz / s.cfg.rate.get st) ∧ t.deadline = s.deadline ∧
      t.status = .ok ∧ t.main = .idle ∧ t.hist = .response (wordOf .speedchg) .ok :: s.hist ∧
      { t with latch := s.latch, status := s.status, main := s.main, draws := s.draws, hist := s.hist } = s)

/-- R150, R153, U8: TIMEADV moves `NOW` forward and nothing else; no move backward exists. -/
def Obligations.TimeMovesForwardOnly : Prop :=
  ∀ (s : State) (t : Time),
    (s.now.toNat ≤ t.toNat → exec (.timeadv t) s = .next { s with now := t }) ∧
    (t.toNat < s.now.toNat → exec (.timeadv t) s = .refused .timeBackwards)

/-- R153, R154: the stream that fires is a due one with the least deadline, on equal deadlines the lowest index; none
fires exactly when none is due. -/
def Obligations.EarliestDueStreamFires : Prop :=
  ∀ s : State,
    (∀ st, nextDue s = some st ↔ due s st = true ∧ ∀ st', due s st' = true →
      (s.deadline.get st).toNat < (s.deadline.get st').toNat ∨
      (s.deadline.get st).toNat = (s.deadline.get st').toNat ∧ st.sel.toNat ≤ st'.sel.toNat) ∧
    (nextDue s = none ↔ ∀ st, due s st = false)

/-- R153, R121: a timer turn of an idle main path fires the tick of the next due stream: its deadline moves by one latch
and nothing else than TICK's body happens, the advance of the position or, on the last place of the period, the flush at
the full position and the wrap to 0; neither `STATUS` nor a response is written. The `draws` of the flush is the model's
counter after the firing (log entry 19), whatever it is. -/
def Obligations.TimerTurnFiresOneTick : Prop :=
  ∀ (s : State) (rest : List Turn) (st : Sys2Proof.Stream),
    s.agenda = .timer :: rest → s.main = .idle → nextDue s = some st →
    (s.deadline.get st).toNat + (s.latch.get st).toNat < 2 ^ 64 → ∃ t n, step s = .next t ∧
    (t.deadline.get st).toNat = (s.deadline.get st).toNat + (s.latch.get st).toNat ∧
    (∀ st', st' ≠ st → t.deadline.get st' = s.deadline.get st') ∧
    (s.pos.get st + 1 ≠ s.cfg.bufLen.get st →
      t = { s with agenda := rest, deadline := t.deadline, pos := s.pos.set st (s.pos.get st + 1), draws := n,
                   hist := .tick st :: s.hist }) ∧
    (s.pos.get st + 1 = s.cfg.bufLen.get st → ∃ u,
      exec (.flush st) { s with agenda := rest, deadline := t.deadline, pos := s.pos.set st (s.cfg.bufLen.get st),
                                draws := n, hist := .tick st :: s.hist } = .next u ∧
      t = { u with pos := s.pos.set st 0 }) ∧
    t.status = s.status ∧ responses t.hist = responses s.hist

/-- R153: a deadline advances from its own previous value, so after `n` fired ticks of a stream it is `n` latches on,
with no drift. -/
def Obligations.DeadlinesDoNotDrift : Prop :=
  ∀ (n : Nat) (s : State) (st : Sys2Proof.Stream),
    (s.deadline.get st).toNat + n * (s.latch.get st).toNat < 2 ^ 64 →
    (((fireTick st)^[n] s).deadline.get st).toNat = (s.deadline.get st).toNat + n * (s.latch.get st).toNat

/-! ## CD worker: main path -/

/-- R170: CDCHECK starts a worker, begins the stop of one, or leaves it, by whether some drive is enabled. -/
def Obligations.CheckConvergesToDriveCount : Prop :=
  ∀ s : State, s.life = .active → ∃ t, exec .cdcheck s = .next t ∧
    (if 0 < enabledDrives s ∧ s.cdEnable = false then
      t.wState = .starting ∧ t.run = true ∧ t.sig = false ∧ t.startEvt = false ∧ t.cdDiv = s.cfg.cdN ∧
      t.main = .awaitReady (wordOf .cdcheck) ∧ t.status = s.status
     else if enabledDrives s = 0 ∧ s.cdEnable = true then
      t.run = false ∧ t.sig = true ∧ t.main = .awaitExit .done (wordOf .cdcheck) ∧ t.status = s.status ∧
      t.wState = s.wState ∧ t.cdDiv = s.cdDiv ∧ t.startEvt = s.startEvt ∧ t.mixPos = s.mixPos
     else
      t.status = .ok ∧ t.main = .idle ∧ t.hist.head? = some (.response (wordOf .cdcheck) .ok) ∧ t.run = s.run ∧
      t.sig = s.sig ∧ t.wState = s.wState ∧ t.cdDiv = s.cdDiv ∧ t.startEvt = s.startEvt ∧ t.mixPos = s.mixPos) ∧
    { t with wState := s.wState, run := s.run, sig := s.sig, startEvt := s.startEvt, cdDiv := s.cdDiv,
             mixPos := s.mixPos, main := s.main, status := s.status, hist := s.hist } = s

/-- R171: CDSTART with a worker answers `OK` and changes nothing; without one it creates the worker and waits. -/
def Obligations.StartCreatesWorkerOnce : Prop :=
  ∀ s : State, s.life = .active →
    (s.cdEnable = true → exec .cdstart s =
      .next { s with status := .ok, main := .idle, hist := .response (wordOf .cdstart) .ok :: s.hist }) ∧
    (s.cdEnable = false → exec .cdstart s =
      .next { s with run := true, sig := false, startEvt := false, cdDiv := s.cfg.cdN, wState := .starting,
                     mixPos := .clear, main := .awaitReady (wordOf .cdstart),
                     hist := .clearStart :: .clearSig :: s.hist })

/-- R172, R255: CDSTOP with no worker answers `OK` and changes nothing, in every `LIFE` state; with one it clears `RUN`,
sets the token and waits. -/
def Obligations.StopIsIdempotent : Prop :=
  ∀ s : State,
    (s.cdEnable = false → exec .cdstop s =
      .next { s with status := .ok, main := .idle, hist := .response (wordOf .cdstop) .ok :: s.hist }) ∧
    (s.cdEnable = true → exec .cdstop s =
      .next { s with run := false, sig := true, main := .awaitExit .done (wordOf .cdstop),
                     hist := .setSig :: s.hist })

/-- R171, R180 and testable property 7: with no other turn prescribed, a CDSTART and the two steps after it are the whole
start handshake, which leaves the state of R171's example. Who steps when no turn is prescribed is the model's choice
(log entry 1), and so is the wait as a phase of the main path (log entry 8). -/
def Obligations.StartHandshakeCompletes : Prop :=
  ∀ s : State, s.life = .active → s.cdEnable = false → s.agenda = [] → ∃ u v t,
    exec .cdstart s = .next u ∧ step u = .next v ∧ step v = .next t ∧
    v.wState = .waiting ∧ v.startEvt = true ∧
    t.wState = .waiting ∧ t.run = true ∧ t.sig = false ∧ t.startEvt = false ∧ t.cdEnable = true ∧
    t.cdDiv = s.cfg.cdN ∧ t.status = .ok ∧ t.main = .idle ∧
    { t with wState := s.wState, run := s.run, sig := s.sig, startEvt := s.startEvt, cdEnable := s.cdEnable,
             cdDiv := s.cdDiv, mixPos := s.mixPos, status := s.status, main := s.main, hist := s.hist } = s

/-- R172, R181, R192 and testable property 7: from every state of the invariant with a worker, a CDSTOP is complete after
at most `P_CDROM_NUM + 4` further steps; a pass in flight delivers its one block first, and a waiting worker delivers
nothing. R172 promises this "provided every oracle call of the pass in flight answers"; that every oracle answers at once
is the model's choice (log entry 7). So are who steps when no turn is prescribed (log entry 1), the wait as a phase of the
main path (log entry 8) and the sub-steps of a pass as separate steps (log entry 9). -/
def Obligations.StopJoinsWorker : Prop :=
  ∀ s : State, Inv s → s.main = .idle → s.agenda = [] → s.cdEnable = true → ∃ u n t,
    exec .cdstop s = .next u ∧ n ≤ s.cfg.cdromNum + 4 ∧ Host.Core.run Sys2Proof.core n u = .next t ∧
    t.wState = .absent ∧ t.cdEnable = false ∧ t.sig = false ∧ t.startEvt = false ∧ t.main = .idle ∧
    t.status = .ok ∧ t.life = .active ∧
    (s.wState = .waiting → deliveries t.hist = deliveries s.hist) ∧
    (s.wState = .mixing → ∃ b, deliveries t.hist = deliveries s.hist ++ [(.cd, b)])

/-- R173: CDSIG counts down only while a worker exists, and on reaching 0 reloads and sets the token, whether or not one
is pending; a flush of EFFECTS runs it, and the flush of another stream leaves the divider and the token. -/
def Obligations.SignalDividesByN : Prop :=
  ∀ s : State,
    (s.cdEnable = false → exec .cdsig s = .next s) ∧
    (s.cdEnable = true → 1 < s.cdDiv → ∃ t, exec .cdsig s = .next t ∧ t.cdDiv = s.cdDiv - 1 ∧
      { t with cdDiv := s.cdDiv, draws := s.draws } = s) ∧
    (s.cdEnable = true → s.cdDiv = 1 → ∃ t, exec .cdsig s = .next t ∧ t.cdDiv = s.cfg.cdN ∧ t.sig = true ∧
      t.hist = .setSig :: s.hist ∧
      { t with cdDiv := s.cdDiv, sig := s.sig, draws := s.draws, hist := s.hist } = s) ∧
    (1 ≤ s.cdDiv → ∃ t u, exec (.flush .effects) s = .next t ∧ exec .cdsig s = .next u ∧
      t.cdDiv = u.cdDiv ∧ t.sig = u.sig) ∧
    (∀ st, st ≠ .effects → ∃ t, exec (.flush st) s = .next t ∧ t.cdDiv = s.cdDiv ∧ t.sig = s.sig)

/-! ## CD worker: its steps -/

/-- R180: W.READY, enabled in STARTING, sets the start event and goes to WAITING. -/
def Obligations.ReadySignalsStart : Prop :=
  ∀ s : State, s.wState = .starting →
    exec .wready s = .next { s with startEvt := true, wState := .waiting, hist := .setStart :: s.hist }

/-- R181, R70: W.WAKE, enabled in WAITING with the token set, takes the token and either exits or latches format and
filter for a pass; without a token the worker is suspended with all its state (that this is a step which changes nothing
is the model's choice, log entry 10). A `CDOUT` of the other format than the latched one holds no values from here to
MIX.clear, one of the same format is unchanged (the model's reading of I-a of R47, log entry 20). -/
def Obligations.WakeTakesTokenAndLatches : Prop :=
  ∀ s : State,
    (s.wState = .waiting → s.sig = true → s.run = false →
      exec .wwake s = .next { s with sig := false, wState := .exited, hist := .clearSig :: s.hist }) ∧
    (s.wState = .waiting → s.sig = true → s.run = true →
      exec .wwake s = .next { s with sig := false, wFmt := s.fmt, wFilt := s.filt.cd, wState := .mixing,
                                     mem := { s.mem with cdout := if s.mem.cdout.fmt = s.fmt then s.mem.cdout
                                                                  else Block.zeros s.fmt 0 },
                                     mixPos := .clear, hist := .clearSig :: s.hist }) ∧
    (s.wState = .waiting → s.sig = false → exec .wwake s = .next s)

/-- R182 a and c, R183: MIX.clear zeroes `CDOUT` in the latched format, MIX.deliver delivers it and returns to WAITING. -/
def Obligations.PassClearsThenDelivers : Prop :=
  ∀ s : State, s.wState = .mixing →
    (s.mixPos = .clear → ∃ t, exec .wmix s = .next t ∧ t.mem.cdout = Block.zeros s.wFmt (cdSize s) ∧
      t.mixPos = (if 0 < s.cfg.cdromNum then .drive 0 else .deliver) ∧
      (∀ sp i, sp ≠ .cdout → t.mem.read sp i = s.mem.read sp i) ∧
      { t with mem := s.mem, mixPos := s.mixPos } = s) ∧
    (s.mixPos = .deliver → ∃ t, exec .wmix s = .next t ∧ t.wState = .waiting ∧
      t.hist = .deliver .cd s.mem.cdout :: s.hist ∧
      { t with wState := s.wState, mixPos := s.mixPos, hist := s.hist } = s)

/-- R184 steps 1 to 3, R182 b, R190: a drive that is disabled or not playing is not asked to decode and changes no buffer;
one that answers `r = 0` has its block stored in its `CDBUF` and contributes nothing, and no filter is called; either way
the pass moves on to the next drive, or from the last one to its delivery. -/
def Obligations.SilentDriveContributesNothing : Prop :=
  ∀ (s : State) (d : Nat), s.wState = .mixing → s.mixPos = .drive d →
    ((driveAt s d).busEn = false ∨ (driveAt s d).playing = false → ∃ t, exec .wmix s = .next t ∧
      t.mixPos = (if d + 1 < s.cfg.cdromNum then .drive (d + 1) else .deliver) ∧
      oracleCalls t.hist = oracleCalls s.hist ∧ deliveries t.hist = deliveries s.hist ∧
      { t with mixPos := s.mixPos, hist := s.hist } = s) ∧
    (∀ blk more, (driveAt s d).busEn = true → (driveAt s d).playing = true →
      s.answers.decode = (0, blk) :: more → blk.length = cdSize s → ∃ t, exec .wmix s = .next t ∧
      t.mixPos = (if d + 1 < s.cfg.cdromNum then .drive (d + 1) else .deliver) ∧
      t.mem = s.mem.putCdbuf d blk ∧ t.answers = { s.answers with decode := more } ∧
      oracleCalls t.hist = oracleCalls s.hist ++ [.decode d 0 blk] ∧ deliveries t.hist = deliveries s.hist ∧
      { t with mixPos := s.mixPos, mem := s.mem, answers := s.answers, draws := s.draws, hist := s.hist } = s)

/-- R182 b, R184 to R188, R78: a playing drive is asked for one block, which is routed, scaled by the drive's gains,
passed through the latched filter, called once per element in index order with its own `CB` and `CTX`, the channel and
the scaled sample, and accumulated into `CDOUT`, element by element, in the latched format; no other buffer but the
drive's `CDBUF` changes, and the pass moves on to the next drive, or from the last one to its delivery. A value that is
not finite leaves some int16 in the element (U4; the element and not the addend is the model's reading, log entry 11). -/
def Obligations.DriveIsMixedElementByElement : Prop :=
  ∀ (s : State) (d r : Nat) (blk : List I16) (more : List (Nat × List I16)) (gL gR : F64),
    s.wState = .mixing → s.mixPos = .drive d → (driveAt s d).busEn = true → (driveAt s d).playing = true →
    s.answers.decode = (r, blk) :: more → blk.length = cdSize s → r ≠ 0 →
    s.mem.read .voltab (if (driveAt s d).hasVol then (driveAt s d).volL.toNat else 255) = some (.f64 gL) →
    s.mem.read .voltab (if (driveAt s d).hasVol then (driveAt s d).volR.toNat else 255) = some (.f64 gR) →
    s.mem.cdout.length = cdSize s → s.mem.cdout.fmt = s.wFmt →
    (s.wFilt.cb ≠ 0 → cdSize s ≤ s.answers.filter.length) →
    let m := fun i => (channelOf i).pick (driveAt s d).routeL (driveAt s d).routeR
    let x := fun i => (if (m i).getLsbD 0 then (blk.getD (2 * (i / 2)) 0).toInt else 0)
      + (if (m i).getLsbD 1 then (blk.getD (2 * (i / 2) + 1) 0).toInt else 0)
    let scaled := fun i => Num.mulvol s.cfg.num (x i) ((channelOf i).pick gL gR)
    let v := fun i => if s.wFilt.cb = 0 then scaled i else s.answers.filter.getD i 0
    ∃ t, exec .wmix s = .next t ∧
    t.mixPos = (if d + 1 < s.cfg.cdromNum then .drive (d + 1) else .deliver) ∧
    (∀ sp i, sp ≠ .cdout → sp ≠ .cdbuf d → t.mem.read sp i = s.mem.read sp i) ∧
    t.mem.cdbuf = s.mem.cdbuf.set d blk ∧
    t.answers = { s.answers with
      decode := more
      filter := if s.wFilt.cb = 0 then s.answers.filter else s.answers.filter.drop (cdSize s) } ∧
    oracleCalls t.hist = oracleCalls s.hist ++ Event.decode d r blk ::
      (if s.wFilt.cb = 0 then [] else (List.range (cdSize s)).map fun i =>
        Event.filter s.wFilt (channelOf i) (scaled i) (s.answers.filter.getD i 0)) ∧
    deliveries t.hist = deliveries s.hist ∧
    (∀ i, i < cdSize s →
      (∀ a y, s.wFmt = .int16 → s.mem.read .cdout i = some (.int16 a) → Num.f2i s.cfg.num (v i) = some y →
        t.mem.read .cdout i = some (.int16
          (match s.cfg.cdIntAcc with
           | .saturate => BitVec.ofInt 16 (Num.clamp16 (a.toInt + y.toInt))
           | .wrap => a + y))) ∧
      (∀ a, s.wFmt = .int16 → s.mem.read .cdout i = some (.int16 a) → Num.f2i s.cfg.num (v i) = none →
        ∃ z, t.mem.read .cdout i = some (.int16 z)) ∧
      (∀ a, s.wFmt = .float → s.mem.read .cdout i = some (.f32 a) →
        t.mem.read .cdout i = some (.f32 (Num.addf s.cfg.num a (Num.f2f s.cfg.num (v i)))))) ∧
    { t with mixPos := s.mixPos, mem := s.mem, answers := s.answers, draws := s.draws, hist := s.hist } = s

/-- R184 to R188 and testable property 5, in integer mode: a first drive with no volume control and no filter leaves in
`CDOUT` the clamped sum of the channels its mask selects: both for `0b11`, silence for `0b00`, the block itself for
the identity routing. A sum that leaves the int16 range is clamped by the suggested numerics record; of another record
R12 names no property there (log entry 25). -/
def Obligations.FullVolumeDriveIsRoutedExactly : Prop :=
  ∀ (s : State) (d r : Nat) (blk : List I16) (more : List (Nat × List I16)),
    s.wState = .mixing → s.mixPos = .drive d → (driveAt s d).busEn = true → (driveAt s d).playing = true →
    (driveAt s d).hasVol = false → s.answers.decode = (r, blk) :: more → blk.length = cdSize s → r ≠ 0 →
    s.mem.read .voltab 255 = some (.f64 0x3FF0000000000000) → s.wFilt.cb = 0 → s.wFmt = .int16 →
    s.mem.cdout = Block.zeros .int16 (cdSize s) →
    ∃ t, exec .wmix s = .next t ∧ ∀ k c, k < s.cfg.cdBufLen →
      let m := c.pick (driveAt s d).routeL (driveAt s d).routeR
      let sL := blk.getD (2 * k) 0
      let sR := blk.getD (2 * k + 1) 0
      s.cfg.num = .ieee ∨ m ≠ 3 ∨ (-32768 ≤ sL.toInt + sR.toInt ∧ sL.toInt + sR.toInt ≤ 32767) →
      t.mem.read .cdout (elementIndex k c) = some (.int16
        (if m = 3 then BitVec.ofInt 16 (Num.clamp16 (sL.toInt + sR.toInt))
         else if m = 1 then sL else if m = 2 then sR else 0))

/-- R182, R191, testable property 4: a pass over drives none of which is enabled and playing delivers one block of
zeros in the latched format and returns to WAITING. -/
def Obligations.PassWithoutDrivesDeliversSilence : Prop :=
  ∀ s : State, s.wState = .mixing → s.mixPos = .clear →
    (∀ d, d < s.cfg.cdromNum → (driveAt s d).busEn = false ∨ (driveAt s d).playing = false) →
    ∃ t, repeatWmix (s.cfg.cdromNum + 2) s = .next t ∧ t.wState = .waiting ∧
      deliveries t.hist = deliveries s.hist ++ [(.cd, Block.zeros s.wFmt (cdSize s))] ∧ t.answers = s.answers ∧
      oracleCalls t.hist = oracleCalls s.hist

/-- R182, R183: from every state of the invariant at the start of a pass, the `P_CDROM_NUM + 2` sub-steps complete, whatever
the drives and the oracles answer, with exactly one delivery of kind CD, of the configured length and the latched
format, and the worker in WAITING. That every oracle answers is the model's choice (log entry 7). -/
def Obligations.EveryPassDeliversOneBlock : Prop :=
  ∀ s : State, Inv s → s.wState = .mixing → s.mixPos = .clear →
    ∃ t b, repeatWmix (s.cfg.cdromNum + 2) s = .next t ∧ t.wState = .waiting ∧
      deliveries t.hist = deliveries s.hist ++ [(.cd, b)] ∧ b.length = cdSize s ∧ b.fmt = s.wFmt

/-- R37, R71, R214, R288: a pass does not see a change of the format flag, of the filter slots, of the CD volume registers
or of any stream's position or handlers made while it is in flight. -/
def Obligations.PassSeesOnlyItsLatches : Prop :=
  ∀ (s t : State) (f : Fmt) (g : PerKind Slot) (l r : BitVec 16) (p : PerStream Nat) (h : PerStream (List Slot)),
    exec .wmix s = .next t →
    exec .wmix { s with fmt := f, filt := g, cdVolL := l, cdVolR := r, pos := p, handlers := h } =
      .next { t with fmt := f, filt := g, cdVolL := l, cdVolR := r, pos := p, handlers := h }

/-- R20, R64, R265: the worker's steps write none of the main path's registers and none of its buffers. -/
def Obligations.WorkerWritesOnlyItsOwn : Prop :=
  ∀ (i : Instr) (s t : State), i = .wready ∨ i = .wwake ∨ i = .wmix → exec i s = .next t →
    (∀ sp i, sp ≠ .cdout → (∀ d, sp ≠ .cdbuf d) → t.mem.read sp i = s.mem.read sp i) ∧
    t.answers.source = s.answers.source ∧
    { t with mem := s.mem, wState := s.wState, wFmt := s.wFmt, wFilt := s.wFilt, sig := s.sig,
             startEvt := s.startEvt, mixPos := s.mixPos, answers := s.answers, draws := s.draws, hist := s.hist } = s

/-- R20, R64, R262: no command writes the worker's buffers or its latches, none but INIT writes the volume table, and in
the step that takes a command the worker's phase changes only at creation. That the release of the worker, where R172
step 3 writes `ABSENT`, is a later step of the main path is the model's choice (log entry 8), and so is it that INIT keeps
the latches and buffers of the worker, which R48 calls unspecified after it (log entry 26). -/
def Obligations.CommandsLeaveWorkerState : Prop :=
  ∀ (i : Instr) (s t : State), (encode i).isSome = true → exec i s = .next t →
    t.wFmt = s.wFmt ∧ t.wFilt = s.wFilt ∧ t.mem.cdout = s.mem.cdout ∧ t.mem.cdbuf = s.mem.cdbuf ∧
    (i ≠ .init → t.mem.voltab = s.mem.voltab) ∧ (t.wState = s.wState ∨ t.wState = .starting) ∧
    t.now = s.now ∧ t.drives = s.drives ∧ t.cfg = s.cfg

/-! ## Gain and filter -/

/-- R214: SETCDVOL stores its operands and shows them on the level outputs, and no flush and no sub-step of a pass depends
on them; without a context it answers `NotReady`. -/
def Obligations.CdVolumeIsStored : Prop :=
  ∀ (s : State) (left right : BitVec 16),
    (s.life = .uninit → exec (.setcdvol left right) s =
      .next { s with status := .notReady, main := .idle,
                     hist := .response (wordOf (.setcdvol left right)) .notReady :: s.hist }) ∧
    (s.life ≠ .uninit → ∃ t, exec (.setcdvol left right) s = .next t ∧
      t.outputs.cdVolL = left ∧ t.outputs.cdVolR = right ∧ t.outputs.status = 0 ∧ t.main = .idle ∧
      t.hist = .response (wordOf (.setcdvol left right)) .ok :: s.hist ∧
      { t with cdVolL := s.cdVolL, cdVolR := s.cdVolR, status := s.status, main := s.main, hist := s.hist } = s) ∧
    (∀ (i : Instr) (t : State), i = .wmix ∨ (∃ st, i = .flush st) → exec i s = .next t →
      exec i { s with cdVolL := left, cdVolR := right } = .next { t with cdVolL := left, cdVolR := right })

/-- R215: null clears a slot, a filter goes into an empty slot, and an occupied slot answers `FilterBusy` unchanged;
without a context the answer is `NotReady`. -/
def Obligations.FilterInstallsOnlyIntoEmptySlot : Prop :=
  ∀ (s : State) (k : Kind) (cb : Cb) (ctx : Ctx),
    (s.life = .uninit → exec (.setfilt k cb ctx) s =
      .next { s with status := .notReady, main := .idle,
                     hist := .response (wordOf (.setfilt k cb ctx)) .notReady :: s.hist }) ∧
    (s.life ≠ .uninit → cb = 0 ∨ (s.filt.get k).cb = 0 → ∃ t, exec (.setfilt k cb ctx) s = .next t ∧
      t.filt.get k = (if cb = 0 then ⟨0, 0⟩ else ⟨cb, ctx⟩) ∧
      (∀ k', k' ≠ k → t.filt.get k' = s.filt.get k') ∧ t.status = .ok ∧ t.main = .idle ∧
      t.hist = .response (wordOf (.setfilt k cb ctx)) .ok :: s.hist ∧
      { t with filt := s.filt, status := s.status, main := s.main, hist := s.hist } = s) ∧
    (s.life ≠ .uninit → cb ≠ 0 → (s.filt.get k).cb ≠ 0 → exec (.setfilt k cb ctx) s =
      .next { s with status := .filterBusy, main := .idle,
                     hist := .response (wordOf (.setfilt k cb ctx)) .filterBusy :: s.hist })

/-- R98, R287: the expansion of SETFILT! replaces whatever filter the slot holds. -/
def Obligations.ReplacingAFilterTakesTwoCommands : Prop :=
  ∀ (s : State) (k : Kind) (cb : Cb) (ctx : Ctx), s.life ≠ .uninit → cb ≠ 0 →
    ∃ t, runAll (Pseudo.expand s (.replaceFilt k cb ctx)) s = .next t ∧ t.filt.get k = ⟨cb, ctx⟩ ∧
      (∀ k', k' ≠ k → t.filt.get k' = s.filt.get k') ∧ t.status = .ok

/-! ## Numerics -/

/-- R10, R125, R127: 32-bit addition is exact exactly when the overflow test is clear, and wraps modulo `2^32` otherwise;
the clamp saturates and is the identity on the int16 range. -/
def Obligations.AdditionWrapsAndClampSaturates : Prop :=
  (∀ a b : I32, (add32Overflows a b = false ↔ (add32 a b).toInt = a.toInt + b.toInt) ∧
    ((add32 a b).toInt - (a.toInt + b.toInt)) % 2 ^ 32 = 0) ∧
  (∀ v : Int, (v < -32768 → Num.clamp16 v = -32768) ∧ (32767 < v → Num.clamp16 v = 32767) ∧
    (-32768 ≤ v → v ≤ 32767 → Num.clamp16 v = v)) ∧
  (∀ r : I32, (narrow (clampRaw r)).toInt = Num.clamp16 r.toInt ∧ (clampRaw r).toInt = Num.clamp16 r.toInt)

/-- R12, R212: in every numerics record the float conversion is finite, has the sign of `x`, is `+0.0` for 0, and up to
`2^24` in magnitude is exactly `x / 32768` (in units of `2^-149`). In the suggested record (log entry 25) a magnitude of
`2^(23+k)` up to `2^(24+k)` is rounded to a multiple `q * 2^k`, to the nearest, ties to even. -/
def Obligations.FloatConversionIsExact : Prop :=
  (∀ (n : Numerics) (x : I32),
    Num.i2f n 0 = 0 ∧ Num.isFinite32 (Num.i2f n x) = true ∧ (Num.i2f n x).msb = x.msb ∧
    (Num.val32 (Num.i2f n x) = 0 ↔ x = 0) ∧
    (x.toInt.natAbs ≤ 2 ^ 24 → Num.val32 (Num.i2f n x) = x.toInt * 2 ^ 134)) ∧
  ∀ (x : I32) (k : Nat), 2 ^ (23 + k) ≤ x.toInt.natAbs → x.toInt.natAbs < 2 ^ (24 + k) → ∃ q : Nat,
    Num.val32 (Num.i2f .ieee x) = x.toInt.sign * (q * 2 ^ k * 2 ^ 134 : Nat) ∧
    2 * (q * 2 ^ k) ≤ 2 * x.toInt.natAbs + 2 ^ k ∧ 2 * x.toInt.natAbs ≤ 2 * (q * 2 ^ k) + 2 ^ k ∧
    (2 * (q * 2 ^ k) = 2 * x.toInt.natAbs + 2 ^ k ∨ 2 * x.toInt.natAbs = 2 * (q * 2 ^ k) + 2 ^ k → q % 2 = 0)

/-- R12, R186, R188: in every numerics record unity gain changes nothing, zero gain and a zero sample give zero, and an
integer of the int16 range comes back from the integer conversion; a NaN or an infinity has no integer (U4). In the
suggested record (log entry 25) the conversion truncates and clamps. -/
def Obligations.UnityAndZeroGain : Prop :=
  (∀ (n : Numerics) (x : Int), -65536 ≤ x → x ≤ 65534 →
    Num.isFinite64 (Num.mulvol n x 0x3FF0000000000000) = true ∧
    Num.val64 (Num.mulvol n x 0x3FF0000000000000) = x * 2 ^ 1074 ∧
    Num.val64 (Num.mulvol n x 0) = 0 ∧
    (∀ g : F64, Num.isFinite64 g = true → Num.val64 (Num.mulvol n 0 g) = 0)) ∧
  (∀ (n : Numerics) (v : F64),
    (Num.isFinite64 v = false → Num.f2i n v = none) ∧
    (∀ y : I16, Num.isFinite64 v = true → Num.val64 v = y.toInt * 2 ^ 1074 → Num.f2i n v = some y)) ∧
  ∀ (x : Int) (v : F64), Num.isFinite64 v = true → (Num.val64 v).tdiv (2 ^ 1074) = x →
    Num.f2i .ieee v = some (BitVec.ofInt 16 (Num.clamp16 x))

/-- R12, R188, R213: in every numerics record a binary32 zero is neutral on the left of the accumulation, a zero converts
to a zero, a NaN stays a NaN, and within these bounds finite operands give a finite result: the product of an integer of
R12's range and a table entry in `[0, 1]`, the conversion of a value no larger than `2^16` in magnitude, and an addition
whose exact sum is below `2^127` in magnitude. Beyond the last two bounds the suggested record may overflow, while in any
other record the conversion and the addition of all finite operands are finite (log entry 25). In the suggested record
`+0.0` plus a finite value other than `-0.0` is that value bit for bit, and `+0.0` plus `-0.0` is `+0.0`. -/
def Obligations.AddingToSilenceIsExact : Prop :=
  (∀ (n : Numerics) (a b : F32), Num.isFinite32 a = true → Num.val32 a = 0 → Num.isFinite32 b = true →
    Num.isFinite32 (Num.addf n a b) = true ∧ Num.val32 (Num.addf n a b) = Num.val32 b) ∧
  (∀ (n : Numerics) (v : F64), Num.isFinite64 v = true → Num.val64 v = 0 →
    Num.isFinite32 (Num.f2f n v) = true ∧ Num.val32 (Num.f2f n v) = 0) ∧
  (∀ (n : Numerics) (a b : F32) (v : F64),
    (Num.isNan32 a = true ∨ Num.isNan32 b = true → Num.isNan32 (Num.addf n a b) = true) ∧
    (Num.isNan64 v = true → Num.isNan32 (Num.f2f n v) = true)) ∧
  (∀ (n : Numerics) (x : Int) (g : F64), -65536 ≤ x → x ≤ 65534 → g.toNat ≤ (0x3FF0000000000000 : F64).toNat →
    Num.isFinite64 (Num.mulvol n x g) = true) ∧
  (∀ (n : Numerics) (v : F64), Num.isFinite64 v = true → (Num.val64 v).natAbs ≤ 2 ^ 16 * 2 ^ 1074 →
    Num.isFinite32 (Num.f2f n v) = true) ∧
  (∀ (n : Numerics) (a b : F32), Num.isFinite32 a = true → Num.isFinite32 b = true →
    (Num.val32 a + Num.val32 b).natAbs < 2 ^ 127 * 2 ^ 149 → Num.isFinite32 (Num.addf n a b) = true) ∧
  (∀ (k : Nat) (a b : F32) (v : F64),
    (Num.isFinite32 a = true → Num.isFinite32 b = true → Num.isFinite32 (Num.addf (.other k) a b) = true) ∧
    (Num.isFinite64 v = true → Num.isFinite32 (Num.f2f (.other k) v) = true)) ∧
  (∀ b : F32, Num.isFinite32 b = true → b ≠ 0x80000000 → Num.addf .ieee 0 b = b) ∧
  Num.addf .ieee 0 0x80000000 = 0 ∧ Num.f2f .ieee 0 = 0

/-- R62: a serialised buffer is little-endian, least significant byte of each element first, element after element. -/
def Obligations.SerialisedLittleEndian : Prop :=
  (∀ (x : I16) (xs : List I16),
    (Block.int16 (x :: xs)).bytes = x.extractLsb' 0 8 :: x.extractLsb' 8 8 :: (Block.int16 xs).bytes) ∧
  (∀ (x : F32) (xs : List F32),
    (Block.float (x :: xs)).bytes = x.extractLsb' 0 8 :: x.extractLsb' 8 8 :: x.extractLsb' 16 8 ::
      x.extractLsb' 24 8 :: (Block.float xs).bytes) ∧
  (Block.int16 []).bytes = [] ∧ (Block.float []).bytes = []

/-! ## Whole machine -/

/-- R48, R281: what power-on leaves in the elements the spec gives a power-on value. After INIT the elements R48 calls
unspecified are what the model leaves in them: `RAW` and `OUT` hold no values, the timers' and the worker's registers and
the worker's buffers are kept (log entries 20 and 26). -/
def Obligations.PowerOnState : Prop :=
  (State.reset.life = .uninit ∧ State.reset.status = .ok ∧ State.reset.accOvf = false ∧
  (∀ st, State.reset.handlers.get st = [] ∧ State.reset.ten.get st = false) ∧
  State.reset.cdEnable = false ∧ State.reset.wState = .absent ∧ State.reset.run = false ∧
  State.reset.sig = false ∧ State.reset.startEvt = false ∧ State.reset.main = .idle) ∧
  ∀ s : State, s.life = .uninit → ∃ t, exec .init s = .next t ∧
    t.latch = s.latch ∧ t.deadline = s.deadline ∧ t.cdDiv = s.cdDiv ∧ t.wFmt = s.wFmt ∧ t.wFilt = s.wFilt ∧
    (∀ st i, t.mem.read (.raw st) i = none ∧ t.mem.read (.out st) i = none) ∧
    (∀ d i, t.mem.read (.cdbuf d) i = s.mem.read (.cdbuf d) i) ∧
    ∀ i, t.mem.read .cdout i = s.mem.read .cdout i

/-- The invariant holds at power-on, with the parameters and values of log entries 2 to 6. -/
def Obligations.ResetSatisfiesInvariant : Prop := Inv State.reset

/-- R47, R151, R32: every step from a state of the invariant leads to one: no stream buffer and no CD block ever holds
elements of another format than `FMT` and `W_FMT` select (I-a), counts and positions stay in range, the timers run exactly
while `ACTIVE`, and worker and main path stay coupled. A RESET whose allocation failed and that waits for the worker to
exit (`freeing`) is still `ACTIVE` there, with its timers already off and its streams freed (R231 steps 1 and 2): the wait
as a phase of the main path is the model's (log entry 8), and so is it that a freed or retyped buffer holds no values (log
entry 20). -/
def Obligations.StepKeepsInvariant : Prop :=
  ∀ s t : State, Inv s → step s = .next t → Inv t

/-- U7, R48: from a state of the invariant no step reads an element that holds no value: the machine never faults. -/
def Obligations.InvariantExcludesFaults : Prop :=
  ∀ (s : State) (r : Fault), Inv s → step s ≠ .fault r

/-- R192: while the main path waits on the worker in a state of the invariant, it goes on or the worker has an enabled
step: there is no deadlock between the two. Where a run may end and no turn is prescribed, the block stays as it is (that
this is a step which changes nothing is the model's choice, log entry 1). -/
def Obligations.WaitsDoNotDeadlock : Prop :=
  (∀ s : State, Inv s → s.main ≠ .idle → mainReady s = true ∨ workerEnabled s = true) ∧
  (∀ s : State, finished s = true → s.agenda = [] → step s = .next s)

/-- R8, R45, R150: no step changes a parameter but `P_TIME_HZ`, and that only as a move of the environment. -/
def Obligations.ParametersAreFixed : Prop :=
  ∀ s t : State, step s = .next t →
    { t.cfg with timeHz := s.cfg.timeHz } = s.cfg ∧
    (t.cfg ≠ s.cfg → ∃ n rest, s.agenda = .env (.timeHz n) :: rest ∧ t.cfg.timeHz = n)

/-- R79, R80, R294: the history only grows, so a delivered buffer is never changed afterwards. -/
def Obligations.HistoryOnlyGrows : Prop :=
  ∀ s t : State, step s = .next t → ∃ es, t.hist = es ++ s.hist
end

