-- ==== Sys2Proof/Laws/State.lean ====
section
/-! SUPPORT. One lemma per field of the state for each named update of Machine/Ops.lean, and the laws of the indexed
registers and of the buffer updates. -/

namespace Sys2Proof

variable {α : Type}

@[simp] theorem PerStream.get_set_same (p : PerStream α) (st : Stream) (v : α) : (p.set st v).get st = v := by
  cases st <;> rfl

theorem PerStream.get_set_ne (p : PerStream α) {st st' : Stream} (v : α) (h : st' ≠ st) :
    (p.set st v).get st' = p.get st' := by
  cases st <;> cases st' <;> first | rfl | exact absurd rfl h

/-- Reading an indexed register after a write. -/
theorem PerStream.get_set (p : PerStream α) (st st' : Stream) (v : α) :
    (p.set st v).get st' = if st' = st then v else p.get st' := by
  cases st <;> cases st' <;> rfl

@[simp] theorem PerStream.get_all (v : α) (st : Stream) : (PerStream.all v).get st = v := by cases st <;> rfl

theorem PerStream.forall_get {p : PerStream α} {q : α → Prop} :
    (∀ st, q (p.get st)) ↔ q p.effects ∧ q p.music ∧ q p.wavetable :=
  ⟨fun h => ⟨h .effects, h .music, h .wavetable⟩, fun h st => by cases st <;> [exact h.1; exact h.2.1; exact h.2.2]⟩

@[simp] theorem PerKind.get_set_same (p : PerKind α) (k : Kind) (v : α) : (p.set k v).get k = v := by cases k <;> rfl

theorem PerKind.get_set_ne (p : PerKind α) {k k' : Kind} (v : α) (h : k' ≠ k) : (p.set k v).get k' = p.get k' := by
  cases k <;> cases k' <;> first | rfl | exact absurd rfl h

@[simp] theorem PerKind.get_all (v : α) (k : Kind) : (PerKind.all v).get k = v := by cases k <;> rfl

namespace Machine

variable (s : State)

/-! `State.record` -/

@[simp] theorem State.record_cfg (e : Event) : (s.record e).cfg = s.cfg := rfl
@[simp] theorem State.record_life (e : Event) : (s.record e).life = s.life := rfl
@[simp] theorem State.record_fmt (e : Event) : (s.record e).fmt = s.fmt := rfl
@[simp] theorem State.record_status (e : Event) : (s.record e).status = s.status := rfl
@[simp] theorem State.record_accOvf (e : Event) : (s.record e).accOvf = s.accOvf := rfl
@[simp] theorem State.record_pos (e : Event) : (s.record e).pos = s.pos := rfl
@[simp] theorem State.record_handlers (e : Event) : (s.record e).handlers = s.handlers := rfl
@[simp] theorem State.record_latch (e : Event) : (s.record e).latch = s.latch := rfl
@[simp] theorem State.record_deadline (e : Event) : (s.record e).deadline = s.deadline := rfl
@[simp] theorem State.record_ten (e : Event) : (s.record e).ten = s.ten := rfl
@[simp] theorem State.record_cdEnable (e : Event) : (s.record e).cdEnable = s.cdEnable := rfl
@[simp] theorem State.record_cdDiv (e : Event) : (s.record e).cdDiv = s.cdDiv := rfl
@[simp] theorem State.record_run (e : Event) : (s.record e).run = s.run := rfl
@[simp] theorem State.record_sig (e : Event) : (s.record e).sig = s.sig := rfl
@[simp] theorem State.record_startEvt (e : Event) : (s.record e).startEvt = s.startEvt := rfl
@[simp] theorem State.record_wState (e : Event) : (s.record e).wState = s.wState := rfl
@[simp] theorem State.record_wFmt (e : Event) : (s.record e).wFmt = s.wFmt := rfl
@[simp] theorem State.record_wFilt (e : Event) : (s.record e).wFilt = s.wFilt := rfl
@[simp] theorem State.record_cdVolL (e : Event) : (s.record e).cdVolL = s.cdVolL := rfl
@[simp] theorem State.record_cdVolR (e : Event) : (s.record e).cdVolR = s.cdVolR := rfl
@[simp] theorem State.record_filt (e : Event) : (s.record e).filt = s.filt := rfl
@[simp] theorem State.record_mem (e : Event) : (s.record e).mem = s.mem := rfl
@[simp] theorem State.record_main (e : Event) : (s.record e).main = s.main := rfl
@[simp] theorem State.record_mixPos (e : Event) : (s.record e).mixPos = s.mixPos := rfl
@[simp] theorem State.record_now (e : Event) : (s.record e).now = s.now := rfl
@[simp] theorem State.record_allocOk (e : Event) : (s.record e).allocOk = s.allocOk := rfl
@[simp] theorem State.record_drives (e : Event) : (s.record e).drives = s.drives := rfl
@[simp] theorem State.record_answers (e : Event) : (s.record e).answers = s.answers := rfl
@[simp] theorem State.record_agenda (e : Event) : (s.record e).agenda = s.agenda := rfl
@[simp] theorem State.record_draws (e : Event) : (s.record e).draws = s.draws := rfl
@[simp] theorem State.record_hist (e : Event) : (s.record e).hist = e :: s.hist := rfl

/-! `State.respond` -/

@[simp] theorem State.respond_cfg (w : Word) (st : Status) : (s.respond w st).cfg = s.cfg := rfl
@[simp] theorem State.respond_life (w : Word) (st : Status) : (s.respond w st).life = s.life := rfl
@[simp] theorem State.respond_fmt (w : Word) (st : Status) : (s.respond w st).fmt = s.fmt := rfl
@[simp] theorem State.respond_status (w : Word) (st : Status) : (s.respond w st).status = st := rfl
@[simp] theorem State.respond_accOvf (w : Word) (st : Status) : (s.respond w st).accOvf = s.accOvf := rfl
@[simp] theorem State.respond_pos (w : Word) (st : Status) : (s.respond w st).pos = s.pos := rfl
@[simp] theorem State.respond_handlers (w : Word) (st : Status) : (s.respond w st).handlers = s.handlers := rfl
@[simp] theorem State.respond_latch (w : Word) (st : Status) : (s.respond w st).latch = s.latch := rfl
@[simp] theorem State.respond_deadline (w : Word) (st : Status) : (s.respond w st).deadline = s.deadline := rfl
@[simp] theorem State.respond_ten (w : Word) (st : Status) : (s.respond w st).ten = s.ten := rfl
@[simp] theorem State.respond_cdEnable (w : Word) (st : Status) : (s.respond w st).cdEnable = s.cdEnable := rfl
@[simp] theorem State.respond_cdDiv (w : Word) (st : Status) : (s.respond w st).cdDiv = s.cdDiv := rfl
@[simp] theorem State.respond_run (w : Word) (st : Status) : (s.respond w st).run = s.run := rfl
@[simp] theorem State.respond_sig (w : Word) (st : Status) : (s.respond w st).sig = s.sig := rfl
@[simp] theorem State.respond_startEvt (w : Word) (st : Status) : (s.respond w st).startEvt = s.startEvt := rfl
@[simp] theorem State.respond_wState (w : Word) (st : Status) : (s.respond w st).wState = s.wState := rfl
@[simp] theorem State.respond_wFmt (w : Word) (st : Status) : (s.respond w st).wFmt = s.wFmt := rfl
@[simp] theorem State.respond_wFilt (w : Word) (st : Status) : (s.respond w st).wFilt = s.wFilt := rfl
@[simp] theorem State.respond_cdVolL (w : Word) (st : Status) : (s.respond w st).cdVolL = s.cdVolL := rfl
@[simp] theorem State.respond_cdVolR (w : Word) (st : Status) : (s.respond w st).cdVolR = s.cdVolR := rfl
@[simp] theorem State.respond_filt (w : Word) (st : Status) : (s.respond w st).filt = s.filt := rfl
@[simp] theorem State.respond_mem (w : Word) (st : Status) : (s.respond w st).mem = s.mem := rfl
@[simp] theorem State.respond_main (w : Word) (st : Status) : (s.respond w st).main = .idle := rfl
@[simp] theorem State.respond_mixPos (w : Word) (st : Status) : (s.respond w st).mixPos = s.mixPos := rfl
@[simp] theorem State.respond_now (w : Word) (st : Status) : (s.respond w st).now = s.now := rfl
@[simp] theorem State.respond_allocOk (w : Word) (st : Status) : (s.respond w st).allocOk = s.allocOk := rfl
@[simp] theorem State.respond_drives (w : Word) (st : Status) : (s.respond w st).drives = s.drives := rfl
@[simp] theorem State.respond_answers (w : Word) (st : Status) : (s.respond w st).answers = s.answers := rfl
@[simp] theorem State.respond_agenda (w : Word) (st : Status) : (s.respond w st).agenda = s.agenda := rfl
@[simp] theorem State.respond_draws (w : Word) (st : Status) : (s.respond w st).draws = s.draws := rfl
@[simp] theorem State.respond_hist (w : Word) (st : Status) : (s.respond w st).hist = .response w st :: s.hist := rfl

/-! `State.setSig` -/

@[simp] theorem State.setSig_cfg : (s.setSig).cfg = s.cfg := rfl
@[simp] theorem State.setSig_life : (s.setSig).life = s.life := rfl
@[simp] theorem State.setSig_fmt : (s.setSig).fmt = s.fmt := rfl
@[simp] theorem State.setSig_status : (s.setSig).status = s.status := rfl
@[simp] theorem State.setSig_accOvf : (s.setSig).accOvf = s.accOvf := rfl
@[simp] theorem State.setSig_pos : (s.setSig).pos = s.pos := rfl
@[simp] theorem State.setSig_handlers : (s.setSig).handlers = s.handlers := rfl
@[simp] theorem State.setSig_latch : (s.setSig).latch = s.latch := rfl
@[simp] theorem State.setSig_deadline : (s.setSig).deadline = s.deadline := rfl
@[simp] theorem State.setSig_ten : (s.setSig).ten = s.ten := rfl
@[simp] theorem State.setSig_cdEnable : (s.setSig).cdEnable = s.cdEnable := rfl
@[simp] theorem State.setSig_cdDiv : (s.setSig).cdDiv = s.cdDiv := rfl
@[simp] theorem State.setSig_run : (s.setSig).run = s.run := rfl
@[simp] theorem State.setSig_sig : (s.setSig).sig = true := rfl
@[simp] theorem State.setSig_startEvt : (s.setSig).startEvt = s.startEvt := rfl
@[simp] theorem State.setSig_wState : (s.setSig).wState = s.wState := rfl
@[simp] theorem State.setSig_wFmt : (s.setSig).wFmt = s.wFmt := rfl
@[simp] theorem State.setSig_wFilt : (s.setSig).wFilt = s.wFilt := rfl
@[simp] theorem State.setSig_cdVolL : (s.setSig).cdVolL = s.cdVolL := rfl
@[simp] theorem State.setSig_cdVolR : (s.setSig).cdVolR = s.cdVolR := rfl
@[simp] theorem State.setSig_filt : (s.setSig).filt = s.filt := rfl
@[simp] theorem State.setSig_mem : (s.setSig).mem = s.mem := rfl
@[simp] theorem State.setSig_main : (s.setSig).main = s.main := rfl
@[simp] theorem State.setSig_mixPos : (s.setSig).mixPos = s.mixPos := rfl
@[simp] theorem State.setSig_now : (s.setSig).now = s.now := rfl
@[simp] theorem State.setSig_allocOk : (s.setSig).allocOk = s.allocOk := rfl
@[simp] theorem State.setSig_drives : (s.setSig).drives = s.drives := rfl
@[simp] theorem State.setSig_answers : (s.setSig).answers = s.answers := rfl
@[simp] theorem State.setSig_agenda : (s.setSig).agenda = s.agenda := rfl
@[simp] theorem State.setSig_draws : (s.setSig).draws = s.draws := rfl
@[simp] theorem State.setSig_hist : (s.setSig).hist = .setSig :: s.hist := rfl

/-! `State.clearSig` -/

@[simp] theorem State.clearSig_cfg : (s.clearSig).cfg = s.cfg := rfl
@[simp] theorem State.clearSig_life : (s.clearSig).life = s.life := rfl
@[simp] theorem State.clearSig_fmt : (s.clearSig).fmt = s.fmt := rfl
@[simp] theorem State.clearSig_status : (s.clearSig).status = s.status := rfl
@[simp] theorem State.clearSig_accOvf : (s.clearSig).accOvf = s.accOvf := rfl
@[simp] theorem State.clearSig_pos : (s.clearSig).pos = s.pos := rfl
@[simp] theorem State.clearSig_handlers : (s.clearSig).handlers = s.handlers := rfl
@[simp] theorem State.clearSig_latch : (s.clearSig).latch = s.latch := rfl
@[simp] theorem State.clearSig_deadline : (s.clearSig).deadline = s.deadline := rfl
@[simp] theorem State.clearSig_ten : (s.clearSig).ten = s.ten := rfl
@[simp] theorem State.clearSig_cdEnable : (s.clearSig).cdEnable = s.cdEnable := rfl
@[simp] theorem State.clearSig_cdDiv : (s.clearSig).cdDiv = s.cdDiv := rfl
@[simp] theorem State.clearSig_run : (s.clearSig).run = s.run := rfl
@[simp] theorem State.clearSig_sig : (s.clearSig).sig = false := rfl
@[simp] theorem State.clearSig_startEvt : (s.clearSig).startEvt = s.startEvt := rfl
@[simp] theorem State.clearSig_wState : (s.clearSig).wState = s.wState := rfl
@[simp] theorem State.clearSig_wFmt : (s.clearSig).wFmt = s.wFmt := rfl
@[simp] theorem State.clearSig_wFilt : (s.clearSig).wFilt = s.wFilt := rfl
@[simp] theorem State.clearSig_cdVolL : (s.clearSig).cdVolL = s.cdVolL := rfl
@[simp] theorem State.clearSig_cdVolR : (s.clearSig).cdVolR = s.cdVolR := rfl
@[simp] theorem State.clearSig_filt : (s.clearSig).filt = s.filt := rfl
@[simp] theorem State.clearSig_mem : (s.clearSig).mem = s.mem := rfl
@[simp] theorem State.clearSig_main : (s.clearSig).main = s.main := rfl
@[simp] theorem State.clearSig_mixPos : (s.clearSig).mixPos = s.mixPos := rfl
@[simp] theorem State.clearSig_now : (s.clearSig).now = s.now := rfl
@[simp] theorem State.clearSig_allocOk : (s.clearSig).allocOk = s.allocOk := rfl
@[simp] theorem State.clearSig_drives : (s.clearSig).drives = s.drives := rfl
@[simp] theorem State.clearSig_answers : (s.clearSig).answers = s.answers := rfl
@[simp] theorem State.clearSig_agenda : (s.clearSig).agenda = s.agenda := rfl
@[simp] theorem State.clearSig_draws : (s.clearSig).draws = s.draws := rfl
@[simp] theorem State.clearSig_hist : (s.clearSig).hist = .clearSig :: s.hist := rfl

/-! `State.setStart` -/

@[simp] theorem State.setStart_cfg : (s.setStart).cfg = s.cfg := rfl
@[simp] theorem State.setStart_life : (s.setStart).life = s.life := rfl
@[simp] theorem State.setStart_fmt : (s.setStart).fmt = s.fmt := rfl
@[simp] theorem State.setStart_status : (s.setStart).status = s.status := rfl
@[simp] theorem State.setStart_accOvf : (s.setStart).accOvf = s.accOvf := rfl
@[simp] theorem State.setStart_pos : (s.setStart).pos = s.pos := rfl
@[simp] theorem State.setStart_handlers : (s.setStart).handlers = s.handlers := rfl
@[simp] theorem State.setStart_latch : (s.setStart).latch = s.latch := rfl
@[simp] theorem State.setStart_deadline : (s.setStart).deadline = s.deadline := rfl
@[simp] theorem State.setStart_ten : (s.setStart).ten = s.ten := rfl
@[simp] theorem State.setStart_cdEnable : (s.setStart).cdEnable = s.cdEnable := rfl
@[simp] theorem State.setStart_cdDiv : (s.setStart).cdDiv = s.cdDiv := rfl
@[simp] theorem State.setStart_run : (s.setStart).run = s.run := rfl
@[simp] theorem State.setStart_sig : (s.setStart).sig = s.sig := rfl
@[simp] theorem State.setStart_startEvt : (s.setStart).startEvt = true := rfl
@[simp] theorem State.setStart_wState : (s.setStart).wState = s.wState := rfl
@[simp] theorem State.setStart_wFmt : (s.setStart).wFmt = s.wFmt := rfl
@[simp] theorem State.setStart_wFilt : (s.setStart).wFilt = s.wFilt := rfl
@[simp] theorem State.setStart_cdVolL : (s.setStart).cdVolL = s.cdVolL := rfl
@[simp] theorem State.setStart_cdVolR : (s.setStart).cdVolR = s.cdVolR := rfl
@[simp] theorem State.setStart_filt : (s.setStart).filt = s.filt := rfl
@[simp] theorem State.setStart_mem : (s.setStart).mem = s.mem := rfl
@[simp] theorem State.setStart_main : (s.setStart).main = s.main := rfl
@[simp] theorem State.setStart_mixPos : (s.setStart).mixPos = s.mixPos := rfl
@[simp] theorem State.setStart_now : (s.setStart).now = s.now := rfl
@[simp] theorem State.setStart_allocOk : (s.setStart).allocOk = s.allocOk := rfl
@[simp] theorem State.setStart_drives : (s.setStart).drives = s.drives := rfl
@[simp] theorem State.setStart_answers : (s.setStart).answers = s.answers := rfl
@[simp] theorem State.setStart_agenda : (s.setStart).agenda = s.agenda := rfl
@[simp] theorem State.setStart_draws : (s.setStart).draws = s.draws := rfl
@[simp] theorem State.setStart_hist : (s.setStart).hist = .setStart :: s.hist := rfl

/-! `State.clearStart` -/

@[simp] theorem State.clearStart_cfg : (s.clearStart).cfg = s.cfg := rfl
@[simp] theorem State.clearStart_life : (s.clearStart).life = s.life := rfl
@[simp] theorem State.clearStart_fmt : (s.clearStart).fmt = s.fmt := rfl
@[simp] theorem State.clearStart_status : (s.clearStart).status = s.status := rfl
@[simp] theorem State.clearStart_accOvf : (s.clearStart).accOvf = s.accOvf := rfl
@[simp] theorem State.clearStart_pos : (s.clearStart).pos = s.pos := rfl
@[simp] theorem State.clearStart_handlers : (s.clearStart).handlers = s.handlers := rfl
@[simp] theorem State.clearStart_latch : (s.clearStart).latch = s.latch := rfl
@[simp] theorem State.clearStart_deadline : (s.clearStart).deadline = s.deadline := rfl
@[simp] theorem State.clearStart_ten : (s.clearStart).ten = s.ten := rfl
@[simp] theorem State.clearStart_cdEnable : (s.clearStart).cdEnable = s.cdEnable := rfl
@[simp] theorem State.clearStart_cdDiv : (s.clearStart).cdDiv = s.cdDiv := rfl
@[simp] theorem State.clearStart_run : (s.clearStart).run = s.run := rfl
@[simp] theorem State.clearStart_sig : (s.clearStart).sig = s.sig := rfl
@[simp] theorem State.clearStart_startEvt : (s.clearStart).startEvt = false := rfl
@[simp] theorem State.clearStart_wState : (s.clearStart).wState = s.wState := rfl
@[simp] theorem State.clearStart_wFmt : (s.clearStart).wFmt = s.wFmt := rfl
@[simp] theorem State.clearStart_wFilt : (s.clearStart).wFilt = s.wFilt := rfl
@[simp] theorem State.clearStart_cdVolL : (s.clearStart).cdVolL = s.cdVolL := rfl
@[simp] theorem State.clearStart_cdVolR : (s.clearStart).cdVolR = s.cdVolR := rfl
@[simp] theorem State.clearStart_filt : (s.clearStart).filt = s.filt := rfl
@[simp] theorem State.clearStart_mem : (s.clearStart).mem = s.mem := rfl
@[simp] theorem State.clearStart_main : (s.clearStart).main = s.main := rfl
@[simp] theorem State.clearStart_mixPos : (s.clearStart).mixPos = s.mixPos := rfl
@[simp] theorem State.clearStart_now : (s.clearStart).now = s.now := rfl
@[simp] theorem State.clearStart_allocOk : (s.clearStart).allocOk = s.allocOk := rfl
@[simp] theorem State.clearStart_drives : (s.clearStart).drives = s.drives := rfl
@[simp] theorem State.clearStart_answers : (s.clearStart).answers = s.answers := rfl
@[simp] theorem State.clearStart_agenda : (s.clearStart).agenda = s.agenda := rfl
@[simp] theorem State.clearStart_draws : (s.clearStart).draws = s.draws := rfl
@[simp] theorem State.clearStart_hist : (s.clearStart).hist = .clearStart :: s.hist := rfl

/-! `State.sourceCalled` -/

@[simp] theorem State.sourceCalled_cfg (h : Slot) (n : Nat) : (s.sourceCalled h n).cfg = s.cfg := rfl
@[simp] theorem State.sourceCalled_life (h : Slot) (n : Nat) : (s.sourceCalled h n).life = s.life := rfl
@[simp] theorem State.sourceCalled_fmt (h : Slot) (n : Nat) : (s.sourceCalled h n).fmt = s.fmt := rfl
@[simp] theorem State.sourceCalled_status (h : Slot) (n : Nat) : (s.sourceCalled h n).status = s.status := rfl
@[simp] theorem State.sourceCalled_accOvf (h : Slot) (n : Nat) : (s.sourceCalled h n).accOvf = s.accOvf := rfl
@[simp] theorem State.sourceCalled_pos (h : Slot) (n : Nat) : (s.sourceCalled h n).pos = s.pos := rfl
@[simp] theorem State.sourceCalled_handlers (h : Slot) (n : Nat) : (s.sourceCalled h n).handlers = s.handlers := rfl
@[simp] theorem State.sourceCalled_latch (h : Slot) (n : Nat) : (s.sourceCalled h n).latch = s.latch := rfl
@[simp] theorem State.sourceCalled_deadline (h : Slot) (n : Nat) : (s.sourceCalled h n).deadline = s.deadline := rfl
@[simp] theorem State.sourceCalled_ten (h : Slot) (n : Nat) : (s.sourceCalled h n).ten = s.ten := rfl
@[simp] theorem State.sourceCalled_cdEnable (h : Slot) (n : Nat) : (s.sourceCalled h n).cdEnable = s.cdEnable := rfl
@[simp] theorem State.sourceCalled_cdDiv (h : Slot) (n : Nat) : (s.sourceCalled h n).cdDiv = s.cdDiv := rfl
@[simp] theorem State.sourceCalled_run (h : Slot) (n : Nat) : (s.sourceCalled h n).run = s.run := rfl
@[simp] theorem State.sourceCalled_sig (h : Slot) (n : Nat) : (s.sourceCalled h n).sig = s.sig := rfl
@[simp] theorem State.sourceCalled_startEvt (h : Slot) (n : Nat) : (s.sourceCalled h n).startEvt = s.startEvt := rfl
@[simp] theorem State.sourceCalled_wState (h : Slot) (n : Nat) : (s.sourceCalled h n).wState = s.wState := rfl
@[simp] theorem State.sourceCalled_wFmt (h : Slot) (n : Nat) : (s.sourceCalled h n).wFmt = s.wFmt := rfl
@[simp] theorem State.sourceCalled_wFilt (h : Slot) (n : Nat) : (s.sourceCalled h n).wFilt = s.wFilt := rfl
@[simp] theorem State.sourceCalled_cdVolL (h : Slot) (n : Nat) : (s.sourceCalled h n).cdVolL = s.cdVolL := rfl
@[simp] theorem State.sourceCalled_cdVolR (h : Slot) (n : Nat) : (s.sourceCalled h n).cdVolR = s.cdVolR := rfl
@[simp] theorem State.sourceCalled_filt (h : Slot) (n : Nat) : (s.sourceCalled h n).filt = s.filt := rfl
@[simp] theorem State.sourceCalled_mem (h : Slot) (n : Nat) : (s.sourceCalled h n).mem = s.mem := rfl
@[simp] theorem State.sourceCalled_main (h : Slot) (n : Nat) : (s.sourceCalled h n).main = s.main := rfl
@[simp] theorem State.sourceCalled_mixPos (h : Slot) (n : Nat) : (s.sourceCalled h n).mixPos = s.mixPos := rfl
@[simp] theorem State.sourceCalled_now (h : Slot) (n : Nat) : (s.sourceCalled h n).now = s.now := rfl
@[simp] theorem State.sourceCalled_allocOk (h : Slot) (n : Nat) : (s.sourceCalled h n).allocOk = s.allocOk := rfl
@[simp] theorem State.sourceCalled_drives (h : Slot) (n : Nat) : (s.sourceCalled h n).drives = s.drives := rfl
@[simp] theorem State.sourceCalled_answers (h : Slot) (n : Nat) : (s.sourceCalled h n).answers = { s.answers with source := s.answers.source.tail } := rfl
@[simp] theorem State.sourceCalled_agenda (h : Slot) (n : Nat) : (s.sourceCalled h n).agenda = s.agenda := rfl
@[simp] theorem State.sourceCalled_draws (h : Slot) (n : Nat) : (s.sourceCalled h n).draws = s.draws + 2 * n := rfl
@[simp] theorem State.sourceCalled_hist (h : Slot) (n : Nat) : (s.sourceCalled h n).hist = .source h n (s.sourceAnswer n) :: s.hist := rfl

/-! `State.decodeCalled` -/

@[simp] theorem State.decodeCalled_cfg (d : Nat) : (s.decodeCalled d).cfg = s.cfg := rfl
@[simp] theorem State.decodeCalled_life (d : Nat) : (s.decodeCalled d).life = s.life := rfl
@[simp] theorem State.decodeCalled_fmt (d : Nat) : (s.decodeCalled d).fmt = s.fmt := rfl
@[simp] theorem State.decodeCalled_status (d : Nat) : (s.decodeCalled d).status = s.status := rfl
@[simp] theorem State.decodeCalled_accOvf (d : Nat) : (s.decodeCalled d).accOvf = s.accOvf := rfl
@[simp] theorem State.decodeCalled_pos (d : Nat) : (s.decodeCalled d).pos = s.pos := rfl
@[simp] theorem State.decodeCalled_handlers (d : Nat) : (s.decodeCalled d).handlers = s.handlers := rfl
@[simp] theorem State.decodeCalled_latch (d : Nat) : (s.decodeCalled d).latch = s.latch := rfl
@[simp] theorem State.decodeCalled_deadline (d : Nat) : (s.decodeCalled d).deadline = s.deadline := rfl
@[simp] theorem State.decodeCalled_ten (d : Nat) : (s.decodeCalled d).ten = s.ten := rfl
@[simp] theorem State.decodeCalled_cdEnable (d : Nat) : (s.decodeCalled d).cdEnable = s.cdEnable := rfl
@[simp] theorem State.decodeCalled_cdDiv (d : Nat) : (s.decodeCalled d).cdDiv = s.cdDiv := rfl
@[simp] theorem State.decodeCalled_run (d : Nat) : (s.decodeCalled d).run = s.run := rfl
@[simp] theorem State.decodeCalled_sig (d : Nat) : (s.decodeCalled d).sig = s.sig := rfl
@[simp] theorem State.decodeCalled_startEvt (d : Nat) : (s.decodeCalled d).startEvt = s.startEvt := rfl
@[simp] theorem State.decodeCalled_wState (d : Nat) : (s.decodeCalled d).wState = s.wState := rfl
@[simp] theorem State.decodeCalled_wFmt (d : Nat) : (s.decodeCalled d).wFmt = s.wFmt := rfl
@[simp] theorem State.decodeCalled_wFilt (d : Nat) : (s.decodeCalled d).wFilt = s.wFilt := rfl
@[simp] theorem State.decodeCalled_cdVolL (d : Nat) : (s.decodeCalled d).cdVolL = s.cdVolL := rfl
@[simp] theorem State.decodeCalled_cdVolR (d : Nat) : (s.decodeCalled d).cdVolR = s.cdVolR := rfl
@[simp] theorem State.decodeCalled_filt (d : Nat) : (s.decodeCalled d).filt = s.filt := rfl
@[simp] theorem State.decodeCalled_mem (d : Nat) : (s.decodeCalled d).mem = s.mem.putCdbuf d s.decodeAnswer.2 := rfl
@[simp] theorem State.decodeCalled_main (d : Nat) : (s.decodeCalled d).main = s.main := rfl
@[simp] theorem State.decodeCalled_mixPos (d : Nat) : (s.decodeCalled d).mixPos = s.mixPos := rfl
@[simp] theorem State.decodeCalled_now (d : Nat) : (s.decodeCalled d).now = s.now := rfl
@[simp] theorem State.decodeCalled_allocOk (d : Nat) : (s.decodeCalled d).allocOk = s.allocOk := rfl
@[simp] theorem State.decodeCalled_drives (d : Nat) : (s.decodeCalled d).drives = s.drives := rfl
@[simp] theorem State.decodeCalled_answers (d : Nat) : (s.decodeCalled d).answers = { s.answers with decode := s.answers.decode.tail } := rfl
@[simp] theorem State.decodeCalled_agenda (d : Nat) : (s.decodeCalled d).agenda = s.agenda := rfl
@[simp] theorem State.decodeCalled_draws (d : Nat) : (s.decodeCalled d).draws = s.draws + cdSize s + 1 := rfl
@[simp] theorem State.decodeCalled_hist (d : Nat) : (s.decodeCalled d).hist = .decode d s.decodeAnswer.1 s.decodeAnswer.2 :: s.hist := rfl

end Machine

end Sys2Proof
end

