-- ==== Sys2Proof/Laws/Accumulator.lean ====
section
/-! SUPPORT. What CDSIG, FLUSH and TICK can do: each operation as one update of the fields it writes, everything else
being the state it started from. -/

namespace Sys2Proof.Machine

/-- CDSIG writes the divider, the token, the counter of free values and the history, and nothing else. -/
theorem cdSignal_shape (s : State) : ∃ d g n h,
    cdSignal s = { s with cdDiv := d, sig := g, draws := n, hist := h ++ s.hist } ∧
    (s.cdEnable = false → d = s.cdDiv ∧ g = s.sig ∧ n = s.draws ∧ h = []) ∧
    (s.sig = true → g = true) ∧
    (1 ≤ s.cdDiv → s.cdDiv ≤ s.cfg.cdN → 1 ≤ s.cfg.cdN → 1 ≤ d ∧ d ≤ s.cfg.cdN) := by
  unfold cdSignal State.countDown
  split_ifs with he h0 h1 h1
  · exact ⟨s.cfg.cdN, true, s.draws + 1, [.setSig], rfl, by simp [he], by simp, by omega⟩
  · exact ⟨Config.freeDivider s.draws, s.sig, s.draws + 1, [], rfl, by simp [he], id, by omega⟩
  · exact ⟨s.cfg.cdN, true, s.draws + 1, [.setSig], rfl, by simp [he], by simp, by omega⟩
  · exact ⟨s.cdDiv - 1, s.sig, s.draws + 1, [], rfl, by simp [he], id, by omega⟩
  · exact ⟨s.cdDiv, s.sig, s.draws, [], rfl, fun _ => ⟨rfl, rfl, rfl, rfl⟩, id, fun a b _ => ⟨a, b⟩⟩

/-- What CDSIG leaves in the divider and the token depends on four elements only. -/
theorem cdSignal_congr {s t : State} (he : t.cdEnable = s.cdEnable) (hd : t.cdDiv = s.cdDiv) (hg : t.sig = s.sig)
    (hc : t.cfg.cdN = s.cfg.cdN) (h1 : 1 ≤ s.cdDiv) :
    (cdSignal t).cdDiv = (cdSignal s).cdDiv ∧ (cdSignal t).sig = (cdSignal s).sig := by
  have h0 : s.cdDiv ≠ 0 := by omega
  have ht : t.countDown = s.countDown := by simp [State.countDown, hd, h0]
  unfold cdSignal
  rw [he, ht]
  split_ifs <;> simp [State.setSig, hc, hd, hg]

@[simp] theorem sourceAnswer_length (s : State) (n : Nat) : (s.sourceAnswer n).length = 2 * n := by
  unfold State.sourceAnswer
  split
  · split_ifs with h
    · exact h
    · simp
  · simp

@[simp] theorem decodeAnswer_length (s : State) : s.decodeAnswer.2.length = cdSize s := by
  unfold State.decodeAnswer
  split
  · split_ifs with h
    · exact h
    · simp
  · simp

@[simp] theorem Memory.putRaw_raw (m : Memory) (st : Stream) (xs : List I32) :
    (m.putRaw st xs).raw = m.raw.set st xs := rfl
@[simp] theorem Memory.putRaw_out (m : Memory) (st : Stream) (xs : List I32) : (m.putRaw st xs).out = m.out := rfl
@[simp] theorem Memory.putRaw_cdbuf (m : Memory) (st : Stream) (xs : List I32) :
    (m.putRaw st xs).cdbuf = m.cdbuf := rfl
@[simp] theorem Memory.putRaw_cdout (m : Memory) (st : Stream) (xs : List I32) :
    (m.putRaw st xs).cdout = m.cdout := rfl
@[simp] theorem Memory.putRaw_voltab (m : Memory) (st : Stream) (xs : List I32) :
    (m.putRaw st xs).voltab = m.voltab := rfl
@[simp] theorem Memory.putOut_raw (m : Memory) (st : Stream) (b : Block) : (m.putOut st b).raw = m.raw := rfl
@[simp] theorem Memory.putOut_out (m : Memory) (st : Stream) (b : Block) : (m.putOut st b).out = m.out.set st b := rfl
@[simp] theorem Memory.putOut_cdbuf (m : Memory) (st : Stream) (b : Block) : (m.putOut st b).cdbuf = m.cdbuf := rfl
@[simp] theorem Memory.putOut_cdout (m : Memory) (st : Stream) (b : Block) : (m.putOut st b).cdout = m.cdout := rfl
@[simp] theorem Memory.putOut_voltab (m : Memory) (st : Stream) (b : Block) : (m.putOut st b).voltab = m.voltab := rfl

/-- The last write of a buffer is the one that stays. -/
@[simp] theorem Memory.putRaw_putRaw (m : Memory) (st : Stream) (xs ys : List I32) :
    (m.putRaw st xs).putRaw st ys = m.putRaw st ys := by
  cases st <;> rfl

@[simp] theorem addAll_length (a c : List I32) : (addAll a c).length = min a.length c.length := by simp [addAll]

/-- Step 2 of FLUSH from any point of the handler list on: `RAW[s]` of the stream, the overflow flag, the answers, the
counter and the history change, and the buffer keeps its size. -/
theorem foldl_addSource_shape (st : Stream) (hs : List Slot) : ∀ s : State,
    (s.mem.raw.get st).length = streamSize s st → ∃ r v a n h,
    hs.foldl (addSource st) s =
      { s with mem := s.mem.putRaw st r, accOvf := v, answers := { s.answers with source := a }, draws := n,
               hist := h ++ s.hist } ∧
    r.length = streamSize s st ∧ (s.accOvf = true → v = true) := by
  induction hs with
  | nil =>
    intro s hl
    refine ⟨s.mem.raw.get st, s.accOvf, s.answers.source, s.draws, [], ?_, hl, id⟩
    have : s.mem.putRaw st (s.mem.raw.get st) = s.mem := by cases st <;> rfl
    simp [this]
  | cons h hs ih =>
    intro s hl
    have hl' : ((addSource st s h).mem.raw.get st).length = streamSize (addSource st s h) st := by
      simp only [addSource, Memory.putRaw_raw, PerStream.get_set_same, addAll_length, sourceAnswer_length, hl]
      simp [streamSize]
    obtain ⟨r, v, a, n, hh, e, e1, e2⟩ := ih (addSource st s h) hl'
    refine ⟨r, v, a, n, hh ++ [.source h (s.cfg.bufLen.get st) (s.sourceAnswer (s.cfg.bufLen.get st))], ?_, ?_, ?_⟩
    · rw [List.foldl_cons, e]
      simp [addSource]
    · simpa [addSource, streamSize] using e1
    · intro hv
      apply e2
      simp [addSource, hv]

/-- FLUSH: the two buffers of its stream, the overflow flag, the source answers, the token and its divider, the counter
and the history change, and nothing else; the buffers have the period's size and `OUT[s]` the output format. -/
theorem flush_shape (st : Stream) (s : State) : ∃ r b v d g a n h,
    flush st s =
      { s with mem := (s.mem.putRaw st r).putOut st b, accOvf := v, cdDiv := d, sig := g,
               answers := { s.answers with source := a }, draws := n, hist := h ++ s.hist } ∧
    r.length = streamSize s st ∧ b.length = streamSize s st ∧ b.fmt = s.fmt ∧
    (s.accOvf = true → v = true) ∧ (s.sig = true → g = true) ∧
    (s.cdEnable = false ∨ st ≠ .effects → d = s.cdDiv ∧ g = s.sig) ∧
    (1 ≤ s.cdDiv → s.cdDiv ≤ s.cfg.cdN → 1 ≤ s.cfg.cdN → 1 ≤ d ∧ d ≤ s.cfg.cdN) := by
  have h0 : ((clearRaw st s).mem.raw.get st).length = streamSize (clearRaw st s) st := by
    simp [clearRaw, streamSize]
  obtain ⟨r, v, a, n, h, e, e1, e2⟩ := foldl_addSource_shape st (s.handlers.get st) (clearRaw st s) h0
  have e1' : r.length = streamSize s st := by simpa [clearRaw, streamSize] using e1
  have es : addSources st (clearRaw st s) = _ := e
  have key : ∃ r' b, deliverStream st (convert st (addSources st (clearRaw st s))) =
      { s with mem := (s.mem.putRaw st r').putOut st b, accOvf := v, answers := { s.answers with source := a },
               draws := n, hist := .deliver st.kind b :: (h ++ s.hist) } ∧
      r'.length = streamSize s st ∧ b.length = streamSize s st ∧ b.fmt = s.fmt := by
    rw [es]
    cases hf : s.fmt with
    | int16 =>
      refine ⟨r.map clampRaw, .int16 (r.map fun x => narrow (clampRaw x)), ?_, ?_, ?_, rfl⟩
      · simp [deliverStream, convert, clearRaw, hf, State.record]
      · simpa using e1'
      · simpa [Block.length] using e1'
    | float =>
      refine ⟨r, .float (r.map (Num.i2f s.cfg.num)), ?_, e1', ?_, rfl⟩
      · simp [deliverStream, convert, clearRaw, hf, State.record]
      · simpa [Block.length] using e1'
  obtain ⟨r', b, k, k1, k2, k3⟩ := key
  have e2' : s.accOvf = true → v = true := by simpa [clearRaw] using e2
  cases st with
  | effects =>
    obtain ⟨d, g, n', h', c, c1, c2, c3⟩ :=
      cdSignal_shape (deliverStream .effects (convert .effects (addSources .effects (clearRaw .effects s))))
    rw [k] at c c1 c2 c3
    refine ⟨r', b, v, d, g, a, n', h' ++ (.deliver .effects b :: h), ?_, k1, k2, k3, e2', c2, ?_, c3⟩
    · show cdSignal _ = _
      rw [k, c]
      simp [Stream.kind]
    · rintro (hc | hc)
      · exact ⟨(c1 hc).1, (c1 hc).2.1⟩
      · exact absurd rfl hc
  | music =>
    refine ⟨r', b, v, s.cdDiv, s.sig, a, n, .deliver .music b :: h, ?_, k1, k2, k3, e2', id,
      fun _ => ⟨rfl, rfl⟩, fun x y _ => ⟨x, y⟩⟩
    show deliverStream _ _ = _
    rw [k]; simp [Stream.kind]
  | wavetable =>
    refine ⟨r', b, v, s.cdDiv, s.sig, a, n, .deliver .wavetable b :: h, ?_, k1, k2, k3, e2', id,
      fun _ => ⟨rfl, rfl⟩, fun x y _ => ⟨x, y⟩⟩
    show deliverStream _ _ = _
    rw [k]; simp [Stream.kind]

/-- TICK: either the position alone advances, or the stream is flushed and the position is 0 again. -/
theorem tickBody_cases (st : Stream) (s : State) :
    (s.pos.get st + 1 ≠ s.cfg.bufLen.get st ∧
      tickBody st s = { s with pos := s.pos.set st (s.pos.get st + 1), hist := .tick st :: s.hist }) ∨
    (s.pos.get st + 1 = s.cfg.bufLen.get st ∧ ∃ r b v d g a n h,
      tickBody st s =
        { s with pos := s.pos.set st 0, mem := (s.mem.putRaw st r).putOut st b, accOvf := v, cdDiv := d, sig := g,
                 answers := { s.answers with source := a }, draws := n, hist := h ++ s.hist } ∧
      r.length = streamSize s st ∧ b.length = streamSize s st ∧ b.fmt = s.fmt ∧
      (s.accOvf = true → v = true) ∧ (s.sig = true → g = true) ∧
      (s.cdEnable = false ∨ st ≠ .effects → d = s.cdDiv ∧ g = s.sig) ∧
      (1 ≤ s.cdDiv → s.cdDiv ≤ s.cfg.cdN → 1 ≤ s.cfg.cdN → 1 ≤ d ∧ d ≤ s.cfg.cdN)) := by
  by_cases hp : s.pos.get st + 1 = s.cfg.bufLen.get st
  · right
    refine ⟨hp, ?_⟩
    obtain ⟨r, b, v, d, g, a, n, h, e, rest⟩ :=
      flush_shape st ({ s with pos := s.pos.set st (s.pos.get st + 1) }.record (.tick st))
    refine ⟨r, b, v, d, g, a, n, h ++ [.tick st], ?_, rest⟩
    have hs : ∀ p : Nat, (s.pos.set st p).set st 0 = s.pos.set st 0 := by intro p; cases st <;> rfl
    unfold tickBody
    simp only [hp, if_true, State.record_cfg] at e ⊢
    rw [e]
    simp [State.record, hs]
  · left
    refine ⟨hp, ?_⟩
    unfold tickBody
    simp [hp, State.record]

end Sys2Proof.Machine
end

