-- ==== Sys2Proof/Laws/Decode.lean ====
section
/-! SUPPORT. The fields of a packed word, and the tables of R92 read back. -/

namespace Sys2Proof

variable (op : BitVec 8) (sel : BitVec 4) (cb : Cb) (arg : BitVec 32)

/-- A packed word, bit by bit (R91). -/
theorem getLsbD_pack (i : Nat) : (pack op sel cb arg).getLsbD i =
    if i < 32 then arg.getLsbD i else if i < 44 then cb.getLsbD (i - 32) else if i < 52 then false
    else if i < 56 then sel.getLsbD (i - 52) else op.getLsbD (i - 56) := by
  show (op ++ sel ++ 0#8 ++ cb ++ arg).getLsbD i = _
  simp only [BitVec.getLsbD_append, BitVec.getLsbD_zero]
  split_ifs <;> first | rfl | (exfalso; omega)

theorem opOf_pack : opOf (pack op sel cb arg) = op := by
  apply BitVec.eq_of_getLsbD_eq
  intro i hi
  simp only [opOf, BitVec.getLsbD_extractLsb', getLsbD_pack]
  interval_cases i <;> simp

theorem selOf_pack : selOf (pack op sel cb arg) = sel := by
  apply BitVec.eq_of_getLsbD_eq
  intro i hi
  simp only [selOf, BitVec.getLsbD_extractLsb', getLsbD_pack]
  interval_cases i <;> simp

theorem cbOf_pack : cbOf (pack op sel cb arg) = cb := by
  apply BitVec.eq_of_getLsbD_eq
  intro i hi
  simp only [cbOf, BitVec.getLsbD_extractLsb', getLsbD_pack]
  interval_cases i <;> simp

theorem argOf_pack : argOf (pack op sel cb arg) = arg := by
  apply BitVec.eq_of_getLsbD_eq
  intro i hi
  simp only [argOf, BitVec.getLsbD_extractLsb', getLsbD_pack]
  interval_cases i <;> simp

theorem streamOf_sel (st : Stream) : streamOf st.sel = some st := by cases st <;> decide

theorem kindOf_sel (k : Kind) : kindOf k.sel = some k := by cases k <;> decide

theorem fmtOf_sel (f : Fmt) : fmtOf f.sel = f := by cases f <;> decide

/-- What decodes is well formed and has a command word. -/
theorem decode_wf {w : Word} {i : Instr} (h : decode w = .instr i) : i.wf = true ∧ (encode i).isSome = true := by
  unfold decode at h
  split at h
  · cases h
  · rename_i r hr
    have hm := List.mem_of_find?_eq_some hr
    split_ifs at h
    split at h
    · cases h
    · rename_i j hj
      obtain rfl := Decoded.instr.inj h
      clear h
      simp only [opcodeRows, List.mem_cons, List.not_mem_nil, or_false] at hm
      rcases hm with rfl | rfl | rfl | rfl | rfl | rfl | rfl | rfl | rfl | rfl | rfl | rfl <;>
        simp [Option.bind_eq_some_iff] at hj
      all_goals try (subst hj; simp [Instr.wf, encode])
      · obtain ⟨st, _, h1, rfl⟩ := hj; simp [Instr.wf, encode, h1]
      · obtain ⟨st, _, rfl⟩ := hj; simp [Instr.wf, encode]
      · obtain ⟨st, _, rfl⟩ := hj; simp [Instr.wf, encode]

end Sys2Proof
end

