-- ==== Sys2Proof/Laws/Worker.lean ====
section
/-! SUPPORT. What the start, the stop and the worker's steps can do. -/

namespace Sys2Proof.Machine

/-- Sampling the bus inputs records events and does nothing else. -/
theorem sampleBuses_shape (s : State) : ∃ h, sampleBuses s = { s with hist := h ++ s.hist } := by
  unfold sampleBuses
  generalize List.range s.cfg.cdromNum = l
  suffices H : ∀ u : State, ∃ h,
      l.foldl (fun t d => t.record (.sampledBus d (driveAt s d).busEn)) u = { u with hist := h ++ u.hist } from H s
  induction l with
  | nil => exact fun u => ⟨[], rfl⟩
  | cons d l ih =>
    intro u
    obtain ⟨h, e⟩ := ih (u.record (.sampledBus d (driveAt s d).busEn))
    exact ⟨h ++ [.sampledBus d (driveAt s d).busEn], by rw [List.foldl_cons, e]; simp [State.record]⟩

/-- The frames of a drive change `CDOUT`, the filter answers, the counter and the history; the block keeps the pass's
size and format. -/
theorem mixFrames_next {p : Sampled} {s t : State} (e : mixFrames p s = .next t) : ∃ b a n h,
    t = { s with mem := s.mem.putCdout b, answers := { s.answers with filter := a }, draws := n, hist := h ++ s.hist } ∧
    b.length = cdSize s ∧ b.fmt = s.wFmt := by
  unfold mixFrames at e
  split at e
  · cases e
  · rename_i b hb
    refine ⟨b, _, _, _, (Host.Outcome.next.inj e).symm, ?_⟩
    unfold accumulated at hb
    split at hb
    · split_ifs at hb
      cases hb
      rename_i hf _ _
      simp [Block.length, Block.fmt, hf]
    · split_ifs at hb
      cases hb
      rename_i hf _ _
      simp [Block.length, Block.fmt, hf]
    · cases hb
    · cases hb

/-- The frames can always be mixed into a block of the pass's size and format. -/
theorem mixFrames_completes (p : Sampled) {s : State} (hl : s.mem.cdout.length = cdSize s)
    (hf : s.mem.cdout.fmt = s.wFmt) : ∃ t, mixFrames p s = .next t := by
  unfold mixFrames accumulated
  cases hw : s.wFmt <;> cases hc : s.mem.cdout <;> simp_all [Block.fmt, Block.length]

/-- The first samples of MIX.drive record events and move the pass on. -/
theorem pollDrive_shape (d : Nat) (s : State) : ∃ h,
    pollDrive d s = { s with mixPos := MixPos.after s.cfg d, hist := h ++ s.hist } := by
  unfold pollDrive
  simp only
  split_ifs
  · exact ⟨[.sampledPlaying d (driveAt s d).playing, .sampledBus d (driveAt s d).busEn], rfl⟩
  · exact ⟨[.sampledBus d (driveAt s d).busEn], rfl⟩

/-- Steps 4 and 5 of MIX.drive write what the frames write. -/
theorem mixBlock_next {d : Nat} {blk : List I16} {s t : State} (e : mixBlock d blk s = .next t) : ∃ b a n h,
    t = { s with mem := s.mem.putCdout b, answers := { s.answers with filter := a }, draws := n, hist := h ++ s.hist } ∧
    b.length = cdSize s ∧ b.fmt = s.wFmt := by
  unfold mixBlock at e
  simp only at e
  split at e
  · obtain ⟨b, a, n, h, e', hl, hf⟩ := mixFrames_next e
    refine ⟨b, a, n, h ++ [.sampledRoute d (driveAt s d).routeL (driveAt s d).routeR,
      .sampledVol d (if (driveAt s d).hasVol then some ((driveAt s d).volL, (driveAt s d).volR) else none)], ?_, hl, hf⟩
    rw [e']
    simp [State.record]
  · cases e

/-- A table index is below 256. -/
theorem volIndex_lt (x : DriveIn) (c : Channel) : volIndex x c < 256 := by
  unfold volIndex
  split_ifs
  · exact (c.pick x.volL x.volR).isLt
  · omega

/-- With the table built and `CDOUT` in the pass's size and format, the block can be mixed. -/
theorem mixBlock_completes (d : Nat) (blk : List I16) {s : State} (hv : s.mem.voltab.length = 256)
    (hl : s.mem.cdout.length = cdSize s) (hf : s.mem.cdout.fmt = s.wFmt) : ∃ t, mixBlock d blk s = .next t := by
  have g : ∀ c, ∃ g, s.mem.voltab[volIndex (driveAt s d) c]? = some g :=
    fun c => ⟨_, List.getElem?_eq_getElem (by rw [hv]; exact volIndex_lt _ c)⟩
  obtain ⟨gL, hL⟩ := g .left
  obtain ⟨gR, hR⟩ := g .right
  unfold mixBlock
  simp only [hL, hR]
  exact mixFrames_completes _ hl hf

/-- MIX.drive writes the place in the pass, the drive's `CDBUF`, `CDOUT`, the oracle answers, the counter and the
history, and nothing else. -/
theorem mixDrive_next {d : Nat} {s t : State} (e : mixDrive d s = .next t) : ∃ c b ad af n h,
    t = { s with mixPos := MixPos.after s.cfg d, mem := { s.mem with cdbuf := c, cdout := b },
                 answers := { s.answers with decode := ad, filter := af }, draws := n, hist := h ++ s.hist } ∧
    (c = s.mem.cdbuf ∨ ∃ blk : List I16, blk.length = cdSize s ∧ c = s.mem.cdbuf.set d blk) ∧
    (b = s.mem.cdout ∨ (b.length = cdSize s ∧ b.fmt = s.wFmt)) := by
  obtain ⟨h, eu⟩ := pollDrive_shape d s
  have hlen : (pollDrive d s).decodeAnswer.2.length = cdSize s := by rw [decodeAnswer_length, eu]; rfl
  unfold mixDrive at e
  simp only at e
  generalize (pollDrive d s).decodeAnswer = a at e hlen
  split_ifs at e with h1 h2
  · refine ⟨s.mem.cdbuf.set d (pollDrive d s).decodeAnswer.2, s.mem.cdout, s.answers.decode.tail, s.answers.filter,
      s.draws + cdSize s + 1, .decode d (pollDrive d s).decodeAnswer.1 (pollDrive d s).decodeAnswer.2 :: h, ?_,
      Or.inr ⟨_, by rw [decodeAnswer_length, eu]; rfl, rfl⟩, Or.inl rfl⟩
    rw [← Host.Outcome.next.inj e]
    unfold State.decodeCalled
    generalize (pollDrive d s).decodeAnswer = a'
    rw [eu]
    simp [Memory.putCdbuf, cdSize]
  · obtain ⟨b, f, n, h', e', hl, hf⟩ := mixBlock_next e
    refine ⟨s.mem.cdbuf.set d (pollDrive d s).decodeAnswer.2, b, s.answers.decode.tail, f, n,
      h' ++ .decode d (pollDrive d s).decodeAnswer.1 (pollDrive d s).decodeAnswer.2 :: h, ?_,
      Or.inr ⟨_, by rw [decodeAnswer_length, eu]; rfl, rfl⟩, Or.inr ⟨?_, ?_⟩⟩
    · rw [e']
      unfold State.decodeCalled
      generalize (pollDrive d s).decodeAnswer = a'
      rw [eu]
      simp [Memory.putCdbuf, Memory.putCdout]
    · rw [hl]; simp [cdSize, eu]
    · rw [hf]; simp [eu]
  · refine ⟨s.mem.cdbuf, s.mem.cdout, s.answers.decode, s.answers.filter, s.draws, h, ?_, Or.inl rfl, Or.inl rfl⟩
    rw [← Host.Outcome.next.inj e, eu]

/-- With the table built and `CDOUT` in the pass's size and format, MIX.drive meets no unspecified element. -/
theorem mixDrive_completes (d : Nat) {s : State} (hv : s.mem.voltab.length = 256)
    (hl : s.mem.cdout.length = cdSize s) (hf : s.mem.cdout.fmt = s.wFmt) : ∃ t, mixDrive d s = .next t := by
  obtain ⟨h, eu⟩ := pollDrive_shape d s
  unfold mixDrive
  simp only
  split_ifs
  · exact ⟨_, rfl⟩
  · apply mixBlock_completes
    · simpa [Memory.putCdbuf, eu] using hv
    · simpa [Memory.putCdbuf, eu, cdSize] using hl
    · simpa [Memory.putCdbuf, eu] using hf
  · exact ⟨_, rfl⟩

/-- W.MIX takes one of the three sub-steps of R183, or none. -/
theorem execWmix_next {s t : State} (e : execWmix s = .next t) :
    (s.wState ≠ .mixing ∧ t = s) ∨ (s.wState = .mixing ∧ s.mixPos = .clear ∧ t = mixClear s) ∨
    (∃ d, s.wState = .mixing ∧ s.mixPos = .drive d ∧ mixDrive d s = .next t) ∨
    (s.wState = .mixing ∧ s.mixPos = .deliver ∧ t = mixDeliver s) := by
  unfold execWmix at e
  split_ifs at e with h
  · split at e
    · rename_i hp
      exact Or.inr (Or.inl ⟨h, hp, (Host.Outcome.next.inj e).symm⟩)
    · rename_i d hp
      exact Or.inr (Or.inr (Or.inl ⟨d, h, hp, e⟩))
    · rename_i hp
      exact Or.inr (Or.inr (Or.inr ⟨h, hp, (Host.Outcome.next.inj e).symm⟩))
  · exact Or.inl ⟨h, (Host.Outcome.next.inj e).symm⟩

end Sys2Proof.Machine
end

