-- ==== Sys2Proof/Laws/History.lean ====
section
/-! SUPPORT. What the operations that are no commands add to the history: never a response, a delivery only from a flush
or from MIX.deliver, and which oracle calls. -/

namespace Sys2Proof.Machine

/-- Events none of which is a response. -/
def Silent (h : List Event) : Prop := ∀ e ∈ h, ∀ w st, e ≠ .response w st

theorem Silent.append {a b : List Event} (ha : Silent a) (hb : Silent b) : Silent (a ++ b) :=
  fun e he => (List.mem_append.1 he).elim (ha e) (hb e)

theorem deliveries_append (a b : List Event) : deliveries (a ++ b) = deliveries b ++ deliveries a := by
  simp [deliveries, List.filterMap_append]

theorem oracleCalls_append (a b : List Event) : oracleCalls (a ++ b) = oracleCalls b ++ oracleCalls a := by
  simp [oracleCalls]

theorem responses_append (a b : List Event) : responses (a ++ b) = responses a ++ responses b := by
  simp [responses]

theorem Silent.responses {h : List Event} (n : Silent h) : responses h = [] := by
  refine List.filter_eq_nil_iff.2 fun e he => ?_
  cases e <;> simp
  exact n _ he _ _ rfl

/-- The source calls of handlers `hs` for a period of `n` frames, answered by `vs`, in order (R123). -/
def sourceCalls (n : Nat) (hs : List Slot) (vs : List (List I32)) : List Event :=
  List.zipWith (fun h v => Event.source h n v) hs vs

/-- CDSIG records at most the set of the token. -/
theorem cdSignal_hist (s : State) : ∃ h, (cdSignal s).hist = h ++ s.hist ∧ Silent h ∧ deliveries h = [] ∧
    oracleCalls h = [] := by
  unfold cdSignal
  split_ifs
  · exact ⟨[.setSig], rfl, by simp [Silent], rfl, rfl⟩
  · exact ⟨[], rfl, by simp [Silent], rfl, rfl⟩
  · exact ⟨[], rfl, by simp [Silent], rfl, rfl⟩

/-- Step 2 of FLUSH records one source call per handler, in registration order. -/
theorem foldl_addSource_hist (st : Stream) (hs : List Slot) : ∀ s : State, ∃ h vs,
    (hs.foldl (addSource st) s).hist = h ++ s.hist ∧ Silent h ∧ deliveries h = [] ∧ vs.length = hs.length ∧
    (∀ v ∈ vs, v.length = streamSize s st) ∧ oracleCalls h = sourceCalls (s.cfg.bufLen.get st) hs vs := by
  induction hs with
  | nil => exact fun s => ⟨[], [], rfl, by simp [Silent], rfl, rfl, by simp, rfl⟩
  | cons a l ih =>
    intro s
    obtain ⟨h, vs, e, n, d, hl, hv, c⟩ := ih (addSource st s a)
    refine ⟨h ++ [.source a (s.cfg.bufLen.get st) (s.sourceAnswer (s.cfg.bufLen.get st))],
      s.sourceAnswer (s.cfg.bufLen.get st) :: vs, ?_, n.append (by simp [Silent]),
      by rw [deliveries_append, d]; rfl, by simp [hl], ?_, by rw [oracleCalls_append, c]; rfl⟩
    · rw [List.foldl_cons, e]
      simp [addSource, State.sourceCalled]
    · intro v hm
      rcases List.mem_cons.1 hm with rfl | hm
      · simp [streamSize]
      · exact hv v hm

/-- Step 2 of FLUSH with its handlers answering the vectors `vs`: the calls carry them (R75, R97). -/
theorem foldl_addSource_scripted (st : Stream) (more : List (List I32)) (hs : List Slot) :
    ∀ (s : State) (vs : List (List I32)), vs.length = hs.length → (∀ v ∈ vs, v.length = streamSize s st) →
    s.answers.source = vs ++ more →
    (hs.foldl (addSource st) s).hist = (sourceCalls (s.cfg.bufLen.get st) hs vs).reverse ++ s.hist := by
  induction hs with
  | nil =>
    intro s vs hl _ _
    obtain rfl := List.length_eq_zero_iff.1 hl
    rfl
  | cons h hs ih =>
    intro s vs hl hv ha
    obtain ⟨v, vs, rfl⟩ := List.exists_cons_of_length_eq_add_one hl
    have hs' : s.sourceAnswer (s.cfg.bufLen.get st) = v := by
      unfold State.sourceAnswer
      rw [ha]
      exact if_pos (hv v (by simp))
    rw [List.foldl_cons, ih (addSource st s h) vs (by simpa using hl) (fun v h => hv v (by simp [h]))
      (by simp [addSource, State.sourceCalled, ha])]
    simp [addSource, State.sourceCalled, hs', sourceCalls]

/-- A flush delivers once, the converted buffer it leaves, and calls each of its handlers once, in order. -/
theorem flush_hist (st : Stream) (s : State) : ∃ h vs, (flush st s).hist = h ++ s.hist ∧ Silent h ∧
    deliveries h = [(st.kind, (flush st s).mem.out.get st)] ∧ vs.length = (s.handlers.get st).length ∧
    (∀ v ∈ vs, v.length = streamSize s st) ∧
    oracleCalls h = sourceCalls (s.cfg.bufLen.get st) (s.handlers.get st) vs := by
  obtain ⟨h, vs, e, n, d, hl, hv, c⟩ := foldl_addSource_hist st (s.handlers.get st) (clearRaw st s)
  change (addSources st (clearRaw st s)).hist = h ++ s.hist at e
  obtain ⟨u, hu⟩ : ∃ u, convert st (addSources st (clearRaw st s)) = u := ⟨_, rfl⟩
  have eu : u.hist = h ++ s.hist := by
    rw [← e, ← hu]
    unfold convert
    cases (addSources st (clearRaw st s)).fmt <;> rfl
  have key : (deliverStream st u).hist = (.deliver st.kind (u.mem.out.get st) :: h) ++ s.hist := by
    simp [deliverStream, State.record, eu]
  have dd : deliveries (Event.deliver st.kind (u.mem.out.get st) :: h) = [(st.kind, u.mem.out.get st)] := by
    rw [← List.singleton_append, deliveries_append, d]
    rfl
  have cc : oracleCalls (Event.deliver st.kind (u.mem.out.get st) :: h) = oracleCalls h := by
    rw [← List.singleton_append, oracleCalls_append]
    exact List.append_nil _
  have nn : Silent (Event.deliver st.kind (u.mem.out.get st) :: h) := by
    rw [← List.singleton_append]
    exact Silent.append (by simp [Silent]) n
  cases st with
  | effects =>
    obtain ⟨h2, e2, n2, d2, c2⟩ := cdSignal_hist (deliverStream .effects u)
    have hm : (cdSignal (deliverStream .effects u)).mem = u.mem := by
      obtain ⟨d, g, n, h, e, _⟩ := cdSignal_shape (deliverStream .effects u)
      rw [e]
      rfl
    have hf : flush .effects s = cdSignal (deliverStream .effects u) := by rw [← hu]; rfl
    refine ⟨h2 ++ (.deliver Stream.effects.kind (u.mem.out.get .effects) :: h), vs, ?_, n2.append nn, ?_, hl, hv, ?_⟩
    · rw [hf, e2, key, List.append_assoc]
    · rw [deliveries_append, d2, List.append_nil, dd, hf, hm]
    · rw [oracleCalls_append, c2, List.append_nil, cc, c]
      rfl
  | music =>
    have hf : flush .music s = deliverStream .music u := by rw [← hu]; rfl
    exact ⟨_, vs, by rw [hf, key], nn, by rw [dd, hf]; rfl, hl, hv, by rw [cc, c]; rfl⟩
  | wavetable =>
    have hf : flush .wavetable s = deliverStream .wavetable u := by rw [← hu]; rfl
    exact ⟨_, vs, by rw [hf, key], nn, by rw [dd, hf]; rfl, hl, hv, by rw [cc, c]; rfl⟩

/-- The frames of a drive record filter calls. -/
theorem mixFrames_hist {p : Sampled} {s t : State} (e : mixFrames p s = .next t) :
    ∃ h, t.hist = h ++ s.hist ∧ Silent h ∧ deliveries h = [] := by
  unfold mixFrames at e
  split at e
  · cases e
  · obtain rfl := Host.Outcome.next.inj e
    refine ⟨filterEvents s p, rfl, ?_, ?_⟩ <;> unfold filterEvents <;> split_ifs
    · intro e he
      simp only [List.mem_reverse, List.mem_map] at he
      obtain ⟨i, _, rfl⟩ := he
      simp
    · simp [Silent]
    · simp [deliveries]
    · rfl

/-- MIX.drive records samples and calls, no delivery. -/
theorem mixDrive_hist {d : Nat} {s t : State} (e : mixDrive d s = .next t) :
    ∃ h, t.hist = h ++ s.hist ∧ Silent h ∧ deliveries h = [] := by
  have hp : ∃ h, (pollDrive d s).hist = h ++ s.hist ∧ Silent h ∧ deliveries h = [] := by
    unfold pollDrive
    simp only
    split_ifs
    · exact ⟨[_, _], rfl, by simp [Silent], rfl⟩
    · exact ⟨[_], rfl, by simp [Silent], rfl⟩
  obtain ⟨h, eh, n, dh⟩ := hp
  unfold mixDrive at e
  simp only at e
  split_ifs at e
  · obtain rfl := Host.Outcome.next.inj e
    exact ⟨[_] ++ h, by simp only [State.decodeCalled, eh, List.cons_append]; rfl,
      Silent.append (by simp [Silent]) n, by rw [deliveries_append, dh]; rfl⟩
  · unfold mixBlock at e
    simp only at e
    split at e
    · obtain ⟨h2, e2, n2, d2⟩ := mixFrames_hist e
      obtain ⟨m, r, b, hm⟩ : ∃ m r b, t.hist = h2 ++ ([.sampledRoute d m r, .sampledVol d b,
          .decode d (pollDrive d s).decodeAnswer.1 (pollDrive d s).decodeAnswer.2] ++ h) ++ s.hist := by
        rw [e2]
        simp only [State.decodeCalled, State.record, eh, List.append_assoc, List.cons_append, List.nil_append]
        exact ⟨_, _, _, rfl⟩
      exact ⟨_, hm, n2.append (Silent.append (by simp [Silent]) n),
        by rw [deliveries_append, d2, deliveries_append, dh]; rfl⟩
    · cases e
  · obtain rfl := Host.Outcome.next.inj e
    exact ⟨h, eh, n, dh⟩

end Sys2Proof.Machine
end

