-- ==== Sys2Proof/Laws/Memory.lean ====
section
/-! SUPPORT. Every buffer operation keeps the form of the buffers, the buffers at power-on have it, and a replaced buffer
reads back while every other buffer reads as before. -/

namespace Sys2Proof.Machine

theorem sized_iff (len n : Nat) : sized len n = true ↔ len = 0 ∨ len = n := by simp [sized]

theorem putRaw_keeps_wf {c : Params} {m : Memory} (st : Stream) (xs : List I32) (h : m.wf c = true)
    (hx : sized xs.length (2 * c.bufLen.get st) = true) : (m.putRaw st xs).wf c = true := by
  simp only [Memory.wf, Bool.and_eq_true] at h ⊢
  cases st <;> simp_all [Memory.putRaw, PerStream.set, PerStream.get]

theorem putOut_keeps_wf {c : Params} {m : Memory} (st : Stream) (b : Block) (h : m.wf c = true)
    (hb : sized b.length (2 * c.bufLen.get st) = true) : (m.putOut st b).wf c = true := by
  simp only [Memory.wf, Bool.and_eq_true] at h ⊢
  cases st <;> simp_all [Memory.putOut, PerStream.set, PerStream.get]

theorem putCdbuf_keeps_wf {c : Params} {m : Memory} (d : Nat) (xs : List I16) (h : m.wf c = true)
    (hx : sized xs.length (2 * c.cdBufLen) = true) : (m.putCdbuf d xs).wf c = true := by
  simp only [Memory.wf, Bool.and_eq_true, List.all_eq_true, beq_iff_eq] at h ⊢
  obtain ⟨⟨⟨⟨q1, q2⟩, q3⟩, q4⟩, q5⟩ := h
  refine ⟨⟨⟨⟨q1, by simpa [Memory.putCdbuf] using q2⟩, ?_⟩, q4⟩, q5⟩
  intro b hb
  rcases List.mem_or_eq_of_mem_set hb with hb | rfl
  · exact q3 b hb
  · exact hx

theorem putCdout_keeps_wf {c : Params} {m : Memory} (b : Block) (h : m.wf c = true)
    (hb : sized b.length (2 * c.cdBufLen) = true) : (m.putCdout b).wf c = true := by
  simp only [Memory.wf, Bool.and_eq_true] at h ⊢
  exact ⟨⟨h.1.1, hb⟩, h.2⟩

theorem putVoltab_keeps_wf {c : Params} {m : Memory} (xs : List F64) (h : m.wf c = true)
    (hx : sized xs.length 256 = true) : (m.putVoltab xs).wf c = true := by
  simp only [Memory.wf, Bool.and_eq_true] at h ⊢
  exact ⟨h.1, hx⟩

@[simp] theorem Block.zeros_length (f : Fmt) (n : Nat) : (Block.zeros f n).length = n := by
  cases f <;> simp [Block.zeros, Block.length]

@[simp] theorem Block.zeros_fmt (f : Fmt) (n : Nat) : (Block.zeros f n).fmt = f := by cases f <;> rfl

@[simp] theorem Block.retype_fmt (f : Fmt) (b : Block) : (b.retype f).fmt = f := by
  unfold Block.retype
  split_ifs with h
  · exact h
  · simp

theorem Block.retype_same (b : Block) : b.retype b.fmt = b := if_pos rfl

/-- A retyped buffer keeps its size or holds no values. -/
theorem Block.retype_sized (f : Fmt) {b : Block} {n : Nat} (h : sized b.length n = true) :
    sized (b.retype f).length n = true := by
  unfold Block.retype
  split_ifs
  · exact h
  · simp [sized]

theorem freeStreams_keeps_wf {c : Params} {m : Memory} (f : Fmt) (h : m.wf c = true) :
    (m.freeStreams f).wf c = true := by
  simp only [Memory.wf, Bool.and_eq_true] at h ⊢
  simp_all [Memory.freeStreams, PerStream.all, sized]

theorem reset_memory_wf : State.reset.mem.wf State.reset.cfg = true := by decide

/-! Read after write, and reads of the other buffers -/

theorem read_putRaw_same (m : Memory) (st : Stream) (xs : List I32) (i : Nat) :
    (m.putRaw st xs).read (.raw st) i = xs[i]?.map .int32 := by simp [Memory.read, Memory.putRaw]

theorem read_putRaw_other (m : Memory) (st : Stream) (xs : List I32) {sp : Space} (i : Nat) (h : sp ≠ .raw st) :
    (m.putRaw st xs).read sp i = m.read sp i := by
  cases sp with
  | raw st' =>
    have : st' ≠ st := fun e => h (by rw [e])
    simp [Memory.read, Memory.putRaw, PerStream.get_set_ne _ _ this]
  | out st' => rfl
  | cdbuf d => rfl
  | cdout => rfl
  | voltab => rfl

theorem read_putOut_same (m : Memory) (st : Stream) (b : Block) (i : Nat) :
    (m.putOut st b).read (.out st) i = b.read i := by simp [Memory.read, Memory.putOut]

theorem read_putOut_other (m : Memory) (st : Stream) (b : Block) {sp : Space} (i : Nat) (h : sp ≠ .out st) :
    (m.putOut st b).read sp i = m.read sp i := by
  cases sp with
  | raw st' => rfl
  | out st' =>
    have : st' ≠ st := fun e => h (by rw [e])
    simp [Memory.read, Memory.putOut, PerStream.get_set_ne _ _ this]
  | cdbuf d => rfl
  | cdout => rfl
  | voltab => rfl

theorem read_putCdbuf_other (m : Memory) (d : Nat) (xs : List I16) {sp : Space} (i : Nat) (h : sp ≠ .cdbuf d) :
    (m.putCdbuf d xs).read sp i = m.read sp i := by
  cases sp with
  | raw st' => rfl
  | out st' => rfl
  | cdbuf d' =>
    have : d ≠ d' := fun e => h (by rw [e])
    simp [Memory.read, Memory.putCdbuf, List.getD_eq_getElem?_getD, List.getElem?_set_ne this]
  | cdout => rfl
  | voltab => rfl

theorem read_putCdout_other (m : Memory) (b : Block) {sp : Space} (i : Nat) (h : sp ≠ .cdout) :
    (m.putCdout b).read sp i = m.read sp i := by
  cases sp <;> first | rfl | exact absurd rfl h

/-- Freed stream buffers read as nothing, every other buffer as before. -/
theorem read_freeStreams (m : Memory) (f : Fmt) (sp : Space) (i : Nat) :
    (m.freeStreams f).read sp i =
      (match sp with
       | .raw _ | .out _ => none
       | .cdbuf d => m.read (.cdbuf d) i
       | .cdout => m.read .cdout i
       | .voltab => m.read .voltab i) := by
  cases sp with
  | raw st => cases st <;> rfl
  | out st => cases st <;> cases f <;> rfl
  | cdbuf d => rfl
  | cdout => rfl
  | voltab => rfl

theorem read_putVoltab_other (m : Memory) (xs : List F64) {sp : Space} (i : Nat) (h : sp ≠ .voltab) :
    (m.putVoltab xs).read sp i = m.read sp i := by
  cases sp <;> first | rfl | exact absurd rfl h

end Sys2Proof.Machine
end

