-- ==== Sys2Proof/Laws/Num.lean ====
section
/-! SUPPORT. What rounding and packing do, once: `rne` is the nearest multiple with ties to even, a packed magnitude
unpacks to the rounded one, and a sign and a magnitude come back from the pattern made of them. -/

namespace Sys2Proof.Machine.Num

/-- A value with a property the suggested one has. -/
theorem within_ok {α : Type} (ok : α → Bool) (free suggested : α) (h : ok suggested = true) :
    ok (within ok free suggested) = true := by
  unfold within
  split_ifs with q
  · exact q
  · exact h

/-- Round to nearest, ties to even (R213). -/
theorem rne_nearest (n sh : Nat) :
    2 * (rne n sh * 2 ^ sh) ≤ 2 * n + 2 ^ sh ∧ 2 * n ≤ 2 * (rne n sh * 2 ^ sh) + 2 ^ sh ∧
    (2 * (rne n sh * 2 ^ sh) = 2 * n + 2 ^ sh ∨ 2 * n = 2 * (rne n sh * 2 ^ sh) + 2 ^ sh → rne n sh % 2 = 0) := by
  have h := Nat.div_add_mod n (2 ^ sh)
  have hl := Nat.mod_lt n (Nat.two_pow_pos sh)
  unfold rne
  dsimp only
  generalize n / 2 ^ sh = q at *
  generalize n % 2 ^ sh = r at *
  generalize 2 ^ sh = p at *
  rw [← Nat.mul_comm q p] at h
  split_ifs with hc
  · rw [show (q + 1) * p = q * p + p from Nat.succ_mul q p]
    generalize q * p = m at *
    omega
  · generalize q * p = m at *
    omega

/-- A multiple is not rounded. -/
theorem rne_of_dvd {n sh : Nat} (h : 2 ^ sh ∣ n) : rne n sh * 2 ^ sh = n := by
  obtain ⟨q, rfl⟩ := h
  have hp := Nat.two_pow_pos sh
  unfold rne
  simp only [Nat.mul_mod_right, Nat.mul_div_cancel_left _ hp]
  rw [if_neg (by omega), Nat.mul_comm]

/-- Exponent and fraction of a sum: a rounded fraction that reaches the next power of two carries. -/
theorem unpackMag_add {p e q : Nat} (hp : 1 ≤ p) (hq : q ≤ 2 ^ p) (hn : e = 0 ∨ 2 ^ (p - 1) ≤ q) :
    unpackMag p (e * 2 ^ (p - 1) + q) = q * 2 ^ e := by
  obtain ⟨p, rfl⟩ : ∃ k, p = k + 1 := ⟨p - 1, by omega⟩
  simp only [Nat.add_sub_cancel] at *
  have hpos := Nat.two_pow_pos p
  rw [Nat.pow_succ, Nat.mul_comm] at hq
  unfold unpackMag
  simp only [Nat.add_sub_cancel]
  rw [Nat.add_comm (e * 2 ^ p) q, Nat.add_mul_div_right _ _ hpos, Nat.add_mul_mod_self_right]
  rcases Nat.lt_or_ge q (2 ^ p) with h | h
  · obtain rfl : e = 0 := by omega
    simp [Nat.div_eq_of_lt h, Nat.mod_eq_of_lt h]
  · rcases Nat.lt_or_ge q (2 * 2 ^ p) with h' | h'
    · have hd : q / 2 ^ p = 1 := by rw [Nat.div_eq_iff hpos]; omega
      have hm : q % 2 ^ p = q - 2 ^ p := by have := Nat.div_add_mod q (2 ^ p); rw [hd] at this; omega
      rw [hd, hm, if_neg (by omega), Nat.sub_add_cancel h, show 1 + e - 1 = e by omega]
    · obtain rfl : q = 2 * 2 ^ p := by omega
      rw [Nat.mul_div_cancel _ hpos, Nat.mul_mod_left, if_neg (by omega), show 2 + e - 1 = e + 1 by omega]
      ring

/-- A packed magnitude that stays finite unpacks to the rounded magnitude. -/
theorem packMag_value {p inf n : Nat} (hp : 1 ≤ p)
    (hfin : (n.log2 + 1 - p) * 2 ^ (p - 1) + rne n (n.log2 + 1 - p) < inf) :
    packMag p inf 0 n < inf ∧
    unpackMag p (packMag p inf 0 n) = rne n (n.log2 + 1 - p) * 2 ^ (n.log2 + 1 - p) := by
  have e : packMag p inf 0 n = (n.log2 + 1 - p) * 2 ^ (p - 1) + rne n (n.log2 + 1 - p) := by
    unfold packMag
    simp
    omega
  rw [e]
  refine ⟨hfin, ?_⟩
  by_cases h0 : n = 0
  · subst h0
    rw [show Nat.log2 0 + 1 - p = 0 by simp; omega]
    simp [rne, unpackMag]
  have hlt : n < 2 ^ (n.log2 + 1) := Nat.lt_log2_self
  have hge : 2 ^ n.log2 ≤ n := Nat.log2_self_le h0
  generalize hs : n.log2 + 1 - p = sh at *
  have hr := rne_nearest n sh
  have hpos := Nat.two_pow_pos sh
  apply unpackMag_add hp
  · have h1 : n < 2 ^ (p + sh) := lt_of_lt_of_le hlt (Nat.pow_le_pow_right (by omega) (by omega))
    rw [pow_add] at h1
    generalize rne n sh = q at *
    by_contra hc
    have : (2 ^ p + 1) * 2 ^ sh ≤ q * 2 ^ sh := Nat.mul_le_mul_right _ (by omega)
    rw [Nat.add_one_mul] at this
    omega
  · by_cases hz : sh = 0
    · exact .inl hz
    · right
      rw [show n.log2 = p - 1 + sh by omega, pow_add] at hge
      generalize rne n sh = q at *
      by_contra hc
      have : (q + 1) * 2 ^ sh ≤ 2 ^ (p - 1) * 2 ^ sh := Nat.mul_le_mul_right _ (by omega)
      rw [Nat.add_one_mul] at this
      omega

/-- A magnitude below `2^m` packs to a finite pattern where the exponent `m` needs is below that of infinity. -/
theorem packMag_lt {p inf extra n m : Nat} (hp : 1 ≤ p) (hn : n < 2 ^ m) (hm : p ≤ m)
    (hfin : (m - p - extra) * 2 ^ (p - 1) + 2 ^ p < inf) : packMag p inf extra n < inf := by
  have hl : n.log2 + 1 - p ≤ m - p := by
    by_cases h0 : n = 0
    · subst h0; simp; omega
    · have := (Nat.log2_lt h0).2 hn
      omega
  suffices h : (max (n.log2 + 1 - p) extra - extra) * 2 ^ (p - 1) + rne n (max (n.log2 + 1 - p) extra) < inf from
    lt_of_le_of_lt (min_le_right _ _) h
  refine lt_of_le_of_lt (Nat.add_le_add (Nat.mul_le_mul_right _ (by omega)) ?_) hfin
  have hr := (rne_nearest n (max (n.log2 + 1 - p) extra)).1
  have h1 : n < 2 ^ p * 2 ^ (max (n.log2 + 1 - p) extra) := by
    rw [← pow_add]
    exact lt_of_lt_of_le Nat.lt_log2_self (Nat.pow_le_pow_right (by omega) (by omega))
  have hpos := Nat.two_pow_pos (max (n.log2 + 1 - p) extra)
  generalize max (n.log2 + 1 - p) extra = sh at *
  by_contra hc
  have h2 : (2 ^ p + 1) * 2 ^ sh ≤ rne n sh * 2 ^ sh := Nat.mul_le_mul_right _ (by omega)
  rw [Nat.add_one_mul] at h2
  generalize rne n sh * 2 ^ sh = a at *
  generalize 2 ^ p * 2 ^ sh = b at *
  omega

/-- Sign and magnitude of a binary32 pattern made of them. -/
theorem sign32_parts (neg : Bool) {m : Nat} (h : m < 2 ^ 31) :
    bits32 (sign32 neg m) = m ∧ (sign32 neg m).msb = neg := by
  unfold bits32 sign32
  cases neg <;> simp [BitVec.msb_eq_decide] <;> omega

/-- Sign and magnitude of a binary64 pattern made of them. -/
theorem sign64_parts (neg : Bool) {m : Nat} (h : m < 2 ^ 63) :
    bits64 (sign64 neg m) = m ∧ (sign64 neg m).msb = neg := by
  unfold bits64 sign64
  cases neg <;> simp [BitVec.msb_eq_decide] <;> omega

/-- A pattern of a finite magnitude is finite, and of infinity is an infinity. -/
theorem sign32_finite (neg : Bool) {m : Nat} (h : m < inf32) : isFinite32 (sign32 neg m) = true := by
  simp [isFinite32, (sign32_parts neg (lt_trans h (by decide))).1, h]

theorem sign64_finite (neg : Bool) {m : Nat} (h : m < inf64) : isFinite64 (sign64 neg m) = true := by
  simp [isFinite64, (sign64_parts neg (lt_trans h (by decide))).1, h]

/-- What is no NaN is made finite. -/
theorem saturate32_finite {r : F32} (h : isNan32 r = false) : isFinite32 (saturate32 r) = true := by
  unfold saturate32
  split_ifs with hi
  · exact sign32_finite _ (by decide)
  · simp [isNan32, isInf32, isFinite32] at *
    omega

/-- A finite pattern is left alone. -/
theorem saturate32_of_finite {r : F32} (h : isFinite32 r = true) : saturate32 r = r := by
  unfold saturate32
  rw [if_neg]
  simp [isInf32, isFinite32] at *
  omega

end Sys2Proof.Machine.Num
end

