-- ==== Sys2Proof/Laws/PerInstr.lean ====
section
/-! SUPPORT. Statements per operation. The family `PortOnly` says which operations the command port can carry: exactly
those of R3 marked "encoded" have a command word (R95). -/

namespace Sys2Proof.Laws.PortOnly

/-- An operation has a command word exactly when R3 calls it encoded. -/
def Statement (i : Instr) : Prop := (encode i).isSome = i.encoded

theorem init : Statement .init := rfl
theorem reset : Statement .reset := rfl
theorem setfmt (f : Fmt) : Statement (.setfmt f) := rfl
theorem teardown : Statement .teardown := rfl
theorem regh (st : Stream) (cb : Cb) (ctx : Ctx) : Statement (.regh st cb ctx) := rfl
theorem tick (st : Stream) : Statement (.tick st) := rfl
theorem speedchg : Statement .speedchg := rfl
theorem setcdvol (left right : BitVec 16) : Statement (.setcdvol left right) := rfl
theorem setfilt (k : Kind) (cb : Cb) (ctx : Ctx) : Statement (.setfilt k cb ctx) := rfl
theorem cdcheck : Statement .cdcheck := rfl
theorem cdstart : Statement .cdstart := rfl
theorem cdstop : Statement .cdstop := rfl
theorem flush (st : Stream) : Statement (.flush st) := rfl
theorem cdsig : Statement .cdsig := rfl
theorem timeadv (t : Time) : Statement (.timeadv t) := rfl
theorem wready : Statement .wready := rfl
theorem wwake : Statement .wwake := rfl
theorem wmix : Statement .wmix := rfl

end Sys2Proof.Laws.PortOnly
end

