-- ==== Sys2Proof/Tests/Slice0.lean ====
section
/-! SUPPORT. Tests from the spec's vectors (95_test_vectors.md, under its configuration T), a smoke test of
well-formedness, and a witness for the hypotheses of every statement that has some. -/

namespace Sys2Proof.Tests

open Sys2Proof.Machine

/-! ## Configuration T and a few small states -/

def cfgT : Params :=
  { suggestedParams with
    bufLen := ⟨2, 3, 2⟩, rate := ⟨100, 50, 40⟩, timeHz := 1000, cdBufLen := 2, cdromNum := 2, cdN := 2 }

/-- Power-on under T. -/
def power : State :=
  { State.reset with
    cfg := cfgT
    mem := { State.reset.mem with cdbuf := [[], []] }
    drives := [DriveIn.off, DriveIn.off] }

/-- After INIT. -/
def inited : State :=
  { power with
    life := .inited, fmt := .float, cdVolL := 0xFFFF, cdVolR := 0xFFFF
    mem := { power.mem with out := .all (.float []), voltab := volumeTable cfgT } }

/-- After RESET with no drive enabled, in the given format. -/
def live (f : Fmt) : State :=
  { inited with
    life := .active, fmt := f, latch := ⟨10, 20, 25⟩, deadline := ⟨10, 20, 25⟩, ten := ⟨true, true, true⟩
    mem := { inited.mem with
      raw := ⟨List.replicate 4 0, List.replicate 6 0, List.replicate 4 0⟩
      out := ⟨Block.zeros f 4, Block.zeros f 6, Block.zeros f 4⟩ } }

/-- With a worker in WAITING. -/
def waiting (f : Fmt) : State :=
  { live f with
    cdEnable := true, run := true, wState := .waiting, wFmt := f, cdDiv := 2
    mem := { (live f).mem with cdout := Block.zeros f 0 } }

/-- With a pass at its start. -/
def mixing (f : Fmt) : State := { waiting f with wState := .mixing }

/-- Drive 0 of vectors W2 and W6, with its routing. -/
def drive0 (l r : BitVec 2) : DriveIn := ⟨true, true, true, 128, 255, l, r⟩

/-- A pass at drive `d` with `CDOUT` holding `b`, the drives `ds`, and the next decode answering `a`. -/
def mixingAt (f : Fmt) (d : Nat) (b : Block) (ds : List DriveIn) (a : Nat × List I16) : State :=
  { mixing f with
    mixPos := .drive d, drives := ds, answers := ⟨[], [a], []⟩, mem := { (mixing f).mem with cdout := b } }

/-- A field of the next state, if there is one. -/
def after {α : Type} (o : Out) (g : State → α) : Option α :=
  match o with
  | .next t => some (g t)
  | .fault _ => none
  | .refused _ => none

/-! ## Well-formedness, decoding, encoding -/

/-- R93: `CB = 0` is no handler. -/
theorem test_wf_refuses_null_handler :
    Instr.wf (.regh .effects 0 0x1234) = false ∧ Instr.wf (.regh .effects 1 0) = true := by decide

/-- E1 to E15 but E7: the words written out in 95_test_vectors.md. -/
theorem test_decode_lifecycle :
    decode 0x0100000000000000 = .instr .init ∧ decode 0x0200000000000000 = .instr .reset ∧
    decode 0x0300000000000000 = .instr (.setfmt .int16) ∧ decode 0x0310000000000000 = .instr (.setfmt .float) ∧
    decode 0x0400000000000000 = .instr .teardown := by decide

theorem test_decode_streams :
    decode 0x1000000700001234 = .instr (.regh .effects 7 0x1234) ∧
    decode 0x1110000000000000 = .instr (.tick .music) ∧ decode 0x1200000000000000 = .instr .speedchg := by decide

theorem test_decode_gain :
    decode 0x200000008000FFFF = .instr (.setcdvol 0x8000 0xFFFF) ∧
    decode 0x21300005000000A0 = .instr (.setfilt .cd 5 0xA0) ∧
    decode 0x2130000000000000 = .instr (.setfilt .cd 0 0) ∧
    decode 0x2130000000000055 = .instr (.setfilt .cd 0 0x55) := by decide

theorem test_decode_worker :
    decode 0x3000000000000000 = .instr .cdcheck ∧ decode 0x3100000000000000 = .instr .cdstart ∧
    decode 0x3200000000000000 = .instr .cdstop := by decide

/-- E7 by the fields of R91: OP 0x10, SEL 2, Z 0, CB 0xFFF, ARG 0xFFFFFFFF. The word E7 prints has bits 47:44 set, so
R94 makes it illegal (log entry 14). -/
theorem test_decode_widest_regh :
    decode 0x10200FFFFFFFFFFF = .instr (.regh .wavetable 0xFFF 0xFFFFFFFF) ∧
    decode 0x1020FFFFFFFFFFFF = .illegal .mustBeZero := by decide

/-- E20 to E33, with the test of R94 that each fails. -/
theorem test_decode_illegal :
    ([0x0000000000000000, 0x0500000000000000, 0xFF00000000000000].map decode =
      List.replicate 3 (.illegal .reservedOp)) ∧
    ([0x0100000000000001, 0x0320000000000000, 0x1040000100000000, 0x1000100100000000, 0x1100000100000000,
      0x2010000000000000, 0x2180000000000000, 0x3000000000000001].map decode =
      List.replicate 8 (.illegal .mustBeZero)) ∧
    ([0x1030000100000000, 0x1000000000000000, 0x1130000000000000].map decode =
      List.replicate 3 (.illegal .constraint)) := by decide

/-- A word of the table, as the host numbers its bits, is the first instruction step runs. -/
theorem test_fetch_word :
    decodeTableWord 64 0x200000008000FFFF = some (.setcdvol 0x8000 0xFFFF) ∧
    after (step (inited.withFetchWord 64 0x200000008000FFFF)) (fun t => (t.cdVolL, t.cdVolR, t.agenda)) =
      some (0x8000, 0xFFFF, []) := by decide +kernel

/-! ## Lifecycle -/

/-- L1, G1, G2, G4, G5. -/
theorem test_init :
    after (exec .init power) (fun t => (t.life, t.fmt, t.cdVolL, t.status)) = some (.inited, .float, 0xFFFF, .ok) ∧
    after (exec .init power) (fun t => [0, 1, 128, 255].map fun i => t.mem.read .voltab i) =
      some [some (.f64 0), some (.f64 0), some (.f64 0x3FEBFC7BF9DEC695), some (.f64 0x3FF0000000000000)] := by
  decide +kernel

/-- L2. -/
theorem test_init_twice : after (exec .init inited) (fun t => (t.status, t.life)) = some (.notReady, .inited) := by decide

/-- L3. -/
theorem test_reset :
    after (exec .reset inited) (fun t => (t.life, t.latch, t.deadline, t.ten)) =
      some (.active, ⟨10, 20, 25⟩, ⟨10, 20, 25⟩, ⟨true, true, true⟩) := by decide

/-- X5. -/
theorem test_reset_fails :
    after (exec .reset { inited with allocOk := false }) (fun t => (t.life, t.status.code)) = some (.failed, 2) := by
  decide

/-- L4. -/
theorem test_setfmt_resets :
    after (exec (.setfmt .int16) { live .float with pos := ⟨1, 0, 0⟩, handlers := ⟨[⟨1, 0⟩], [], []⟩ })
      (fun t => (t.fmt, t.pos.effects, t.handlers.effects, t.mem.out.effects)) =
      some (.int16, 0, [], .int16 [0, 0, 0, 0]) := by decide

/-- L5. -/
theorem test_setfmt_same :
    after (exec (.setfmt .int16) { live .int16 with handlers := ⟨[⟨1, 0⟩], [], []⟩ }) (fun t => t.handlers.effects) =
      some [⟨1, 0⟩] := by decide

/-- L7, without a worker: the flag outlives the context. -/
theorem test_teardown :
    after (exec .teardown { live .int16 with accOvf := true }) (fun t => (t.life, t.ten, t.accOvf)) =
      some (.uninit, ⟨false, false, false⟩, true) := by decide

/-- R210, R211: the table at reset has the properties, a flat one and one off in a sample entry do not. -/
theorem test_table_properties :
    volOk suggestedVol = true ∧ volOk ([0, 0] ++ List.replicate 254 0x3FF0000000000000) = false ∧
    volOk (suggestedVol.set 100 0x3FEA8E8A79A0DF67) = false := by decide +kernel

/-! ## Registry and accumulator -/

/-- A8. -/
theorem test_regh :
    after (exec (.regh .effects 7 0x1234) (live .int16)) (fun t => t.handlers.effects) = some [⟨7, 0x1234⟩] := by decide

/-- A7. -/
theorem test_regh_ninth :
    after (exec (.regh .music 9 9) { live .int16 with handlers := ⟨[], List.replicate 8 ⟨1, 1⟩, []⟩ })
      (fun t => (t.status, t.handlers.music.length)) = some (.capacityExceeded, 8) := by decide

/-- A1, the first tick. -/
theorem test_tick_advances :
    after (exec (.tick .effects) (live .int16)) (fun t => (t.pos.effects, deliveries t.hist)) = some (1, []) := by decide

/-- A2: the tick that reaches the period. -/
theorem test_tick_flushes :
    after (exec (.tick .effects)
        { live .int16 with pos := ⟨1, 0, 0⟩, handlers := ⟨[⟨1, 0⟩, ⟨2, 0⟩], [], []⟩,
                           answers := ⟨[[100, -100, 30000, -30000], [5, 5, 10000, -10000]], [], []⟩ })
      (fun t => (t.pos.effects, t.mem.raw.effects, deliveries t.hist)) =
      some (0, [105, -95, 32767, -32768], [(.effects, .int16 [105, -95, 32767, -32768])]) := by decide

/-- A3: float mode does not clamp; 1.220703125 is 0x3F9C4000. -/
theorem test_flush_float :
    after (exec (.flush .effects)
        { live .float with handlers := ⟨[⟨1, 0⟩, ⟨2, 0⟩], [], []⟩,
                           answers := ⟨[[100, -100, 30000, -30000], [5, 5, 10000, -10000]], [], []⟩ })
      (fun t => (t.mem.raw.effects, t.mem.read (.out .effects) 2)) =
      some ([105, -95, 40000, -40000], some (.f32 0x3F9C4000)) := by decide +kernel

/-- A6: a wrapped sum and the sticky flag. -/
theorem test_flush_wraps :
    after (exec (.flush .effects)
        { live .int16 with handlers := ⟨[⟨1, 0⟩, ⟨2, 0⟩], [], []⟩,
                           answers := ⟨[[2147483647, -2147483648, 1, 0], [2147483647, -2147483648, 2, 0]], [], []⟩ })
      (fun t => (t.mem.out.effects, t.accOvf)) = some (.int16 [-2, 0, 3, 0], true) := by decide

/-- The conversion table of 95_test_vectors.md, part 2.2. -/
theorem test_conversion_corners :
    (([0, 1, -1, 32767, 32768, -32768, -32769, 36000, 16777217, 2147483647, -2147483648] : List I32).map fun r =>
      (narrow (clampRaw r), Num.i2f .ieee r)) =
    [(0, 0x00000000), (1, 0x38000000), (-1, 0xB8000000), (32767, 0x3F7FFE00), (32767, 0x3F800000),
     (-32768, 0xBF800000), (-32768, 0xBF800100), (32767, 0x3F8CA000), (32767, 0x44000000), (32767, 0x47800000),
     (-32768, 0xC7800000)] := by decide +kernel

/-! ## Timers -/

/-- T6. -/
theorem test_speedchg :
    after (exec .speedchg { live .float with cfg := { cfgT with timeHz := 2000 }, deadline := ⟨40, 40, 50⟩ })
      (fun t => (t.latch, t.deadline)) = some (⟨20, 40, 50⟩, ⟨40, 40, 50⟩) := by decide

/-- T2. -/
theorem test_timeadv :
    after (exec (.timeadv 9) (live .float)) (fun t => (t.now, nextDue t)) = some (9, none) := by decide

/-- T3. -/
theorem test_timer_fires :
    after (step { live .float with now := 10, agenda := [.timer] }) (fun t => (t.deadline.effects, t.pos, t.status)) =
      some (20, ⟨1, 0, 0⟩, .ok) := by decide

/-- T4, the third tick: s1@20 goes before s2@25, and the stream 0 tick of time 30 waits. -/
theorem test_tick_order :
    nextDue { live .float with now := 35, deadline := ⟨30, 20, 25⟩ } = some .music ∧
    nextDue { live .float with now := 35, deadline := ⟨20, 20, 25⟩ } = some .effects := by decide

/-! ## CD worker -/

/-- W13, the first check. -/
theorem test_cdcheck :
    after (exec .cdcheck { live .int16 with drives := [DriveIn.off, ⟨true, false, false, 0, 0, 1, 2⟩] })
      (fun t => (t.wState, t.main)) = some (.starting, .awaitReady 0x3000000000000000) := by decide

/-- W9. -/
theorem test_cdstart :
    after (exec .cdstart (live .int16)) (fun t => (t.run, t.sig, t.cdDiv, t.wState, t.cdEnable)) =
      some (true, false, 2, .starting, false) := by decide

/-- W10, the first stop up to its wait. -/
theorem test_cdstop :
    after (exec .cdstop (waiting .int16)) (fun t => (t.run, t.sig, t.wState, t.main)) =
      some (false, true, .waiting, .awaitExit .done 0x3200000000000000) := by decide

/-- W16. -/
theorem test_cdstop_uninit : after (exec .cdstop power) (fun t => (t.status, t.life)) = some (.ok, .uninit) := by decide

/-- A12, the second flush. -/
theorem test_cdsig :
    after (exec .cdsig { waiting .int16 with cdDiv := 1 }) (fun t => (t.cdDiv, t.sig)) = some (2, true) := by decide

theorem test_wready :
    after (exec .wready { live .int16 with wState := .starting }) (fun t => (t.startEvt, t.wState)) =
      some (true, .waiting) := by decide

/-- R181: the token is taken, the filter of kind CD and the format are latched. -/
theorem test_wwake :
    after (exec .wwake { waiting .int16 with sig := true, fmt := .float, filt := ⟨⟨1, 1⟩, ⟨2, 2⟩, ⟨3, 3⟩, ⟨5, 0⟩⟩ })
      (fun t => (t.sig, t.wFmt, t.wFilt, t.wState)) = some (false, .float, ⟨5, 0⟩, .mixing) := by decide

/-- I-a of R47, R39: a block of the format that is no longer latched holds no values. -/
theorem test_wwake_retypes :
    after (exec .wwake { waiting .int16 with
        sig := true, fmt := .float, mem := { (waiting .int16).mem with cdout := .int16 [1, 2, 3, 4] } })
      (fun t => t.mem.cdout) = some (.float []) := by decide

/-- W8, drive 0: the same block as W2, in float mode. -/
theorem test_wmix_float :
    after (exec .wmix (mixingAt .float 0 (Block.zeros .float 4) [drive0 1 2, DriveIn.off] (2, [1000, -2000, 3000, -1000])))
      (fun t => t.mem.cdout) = some (.float [0x3CDAA489, 0xBD7A0000, 0x3DA3FB66, 0xBCFA0000]) := by decide +kernel

/-- Program P3, drive 1 over the block W2 leaves: routing `0b11` and `0b00`, and the saturated sum. -/
theorem test_wmix_saturates :
    after (exec .wmix (mixingAt .int16 1 (.int16 [874, -2000, 2623, -1000])
        [drive0 1 2, ⟨true, true, false, 0, 0, 3, 0⟩] (2, [30000, 30000, -5, 7])))
      (fun t => (t.mem.cdout, t.mixPos)) = some (.int16 [32767, -2000, 2625, -1000], .deliver) := by decide +kernel

/-- The single-element table of 95_test_vectors.md, part 2.4: sample, table index, int16 and binary32 results. -/
theorem test_mix_corners :
    (([(3, 128), (-3, 128), (-65536, 255), (65534, 255), (1000, 0), (-1000, 1), (32767, 254), (100, 2)] :
        List (Int × Nat)).map fun p =>
      let v := Num.mulvol .ieee p.1 (Num.vol cfgT p.2)
      (Num.f2i .ieee v, Num.addf .ieee 0 (Num.f2f .ieee v))) =
    [(some 2, 0x38A7EAE8), (some (-2), 0xB8A7EAE8), (some (-32768), 0xC0000000), (some 32767, 0x3FFFFE00),
     (some 0, 0x00000000), (some 0, 0x00000000), (some 32720, 0x3F7FA0FD), (some 12, 0x39C33180)] := by decide +kernel

/-! ## Gain and filter -/

/-- G7. -/
theorem test_setcdvol_uninit : after (exec (.setcdvol 1 2) power) (fun t => (t.status, t.cdVolL)) = some (.notReady, 0) := by
  decide

/-- F1. -/
theorem test_setfilt :
    after (exec (.setfilt .cd 5 0xA0) inited) (fun t => (t.filt.cd, t.filt.effects, t.status)) =
      some (⟨5, 0xA0⟩, ⟨0, 0⟩, .ok) := by decide

/-- F3. -/
theorem test_setfilt_busy :
    after (exec (.setfilt .cd 5 0xA0) { inited with filt := ⟨⟨0, 0⟩, ⟨0, 0⟩, ⟨0, 0⟩, ⟨5, 0xA0⟩⟩ })
      (fun t => (t.status, t.filt.cd)) = some (.filterBusy, ⟨5, 0xA0⟩) := by decide

/-! ## Witnesses: for every statement with hypotheses, a state and operands that meet them, clause by clause -/

theorem witness_DecodeInvertsEncode :
    Instr.wf (.setfilt .cd 0xFFF 0xFFFFFFFF) = true ∧
    encode (.setfilt .cd 0xFFF 0xFFFFFFFF) = some 0x21300FFFFFFFFFFF := by decide

theorem witness_EncodeInvertsDecode : decode 0x2000000000000000 = .instr (.setcdvol 0 0) := by decide

/-- One word for each of the five clauses, at the edge of its range. -/
theorem witness_DecodeRefusesByThreeTests :
    (∀ r ∈ opcodeRows, r.op ≠ opOf 0xFF00000000000000) ∧
    (∃ r ∈ opcodeRows, r.op = opOf 0x0100000000000001 ∧ 0x0100000000000001 &&& r.mask ≠ r.pat) ∧
    (opOf 0x1030000100000000 = 0x10 ∧ 0x1030000100000000 &&& 0xFFCFF00000000000 = (0x1000000000000000 : Word) ∧
      selOf 0x1030000100000000 = 3) ∧
    (opOf 0x1000000000000000 = 0x10 ∧ 0x1000000000000000 &&& 0xFFCFF00000000000 = (0x1000000000000000 : Word) ∧
      cbOf 0x1000000000000000 = 0) ∧
    (opOf 0x1130000000000000 = 0x11 ∧ 0x1130000000000000 &&& 0xFFCFFFFFFFFFFFFF = (0x1100000000000000 : Word) ∧
      selOf 0x1130000000000000 = 3) ∧
    (∃ r ∈ opcodeRows, r.op = opOf 0x1020000100000000 ∧ 0x1020000100000000 &&& r.mask = r.pat ∧
      selOf 0x1020000100000000 ≠ 3 ∧ cbOf 0x1020000100000000 ≠ 0) := by
  refine ⟨by decide, ⟨⟨0x01, 0x0100000000000000, 0xFFFFFFFFFFFFFFFF, fun _ => some .init⟩, by simp [opcodeRows], by decide,
    by decide⟩, by decide, by decide, by decide, ?_⟩
  exact ⟨⟨0x10, 0x1000000000000000, 0xFFCFF00000000000, fun w =>
      (streamOf (selOf w)).bind fun st => if cbOf w = 0 then none else some (.regh st (cbOf w) (argOf w))⟩,
    by simp [opcodeRows], by decide, by decide, by decide, by decide⟩

/-- A state with one turn to take. -/
def turn (s : State) (x : Turn) : State := { s with agenda := [x] }

theorem witness_StepRunsDecodedCommand :
    (turn (live .float) (.command 0x1110000000000000)).agenda = .command 0x1110000000000000 :: [] ∧
    (turn (live .float) (.command 0x1110000000000000)).main = .idle ∧
    decode 0x1110000000000000 = .instr (.tick .music) := by decide

theorem witness_StepRunsUnencodedOperations :
    (turn { live .int16 with wState := .starting } .worker).wState = .starting ∧
    (turn (waiting .int16) .worker).wState = .waiting ∧ (turn (mixing .int16) .worker).wState = .mixing ∧
    (turn (live .int16) .worker).wState = .absent ∧ (turn { live .int16 with wState := .exited } .worker).wState = .exited ∧
    (turn (live .int16) (.env (.now 0xFFFFFFFFFFFFFFFF))).agenda = .env (.now 0xFFFFFFFFFFFFFFFF) :: [] := by decide

/-- The environment's other moves: the last drive slot and the first missing one, the least time base and the next below,
and an answer of each oracle. -/
theorem witness_StepRunsUnencodedOperations_environment :
    (turn (live .int16) (.env (.allocOk false))).agenda = .env (.allocOk false) :: [] ∧
    ((turn (live .int16) (.env (.drive 1 (drive0 1 2)))).agenda = .env (.drive 1 (drive0 1 2)) :: [] ∧
      1 < (live .int16).cfg.cdromNum ∧ (live .int16).cfg.cdromNum ≤ 2) ∧
    ((turn (live .int16) (.env (.timeHz 100))).agenda = .env (.timeHz 100) :: [] ∧
      99 < (live .int16).cfg.rate.get .effects) ∧
    (turn (live .int16) (.env (.source [1]))).agenda = .env (.source [1]) :: [] ∧
    (turn (live .int16) (.env (.decode 0 []))).agenda = .env (.decode 0 []) :: [] ∧
    (turn (live .int16) (.env (.filter 0))).agenda = .env (.filter 0) :: [] := by decide

theorem witness_StepRunsUnencodedOperations_rates : ∀ st, (live .int16).cfg.rate.get st ≤ 100 :=
  fun st => by cases st <;> decide

theorem witness_IllegalWordsChangeOnlyStatus :
    opOf 0x3300000000000000 ∉ ([0x01, 0x02, 0x03, 0x04, 0x10, 0x11, 0x12, 0x20, 0x21, 0x30, 0x31, 0x32] :
      List (BitVec 8)) ∧
    (turn power (.command 0x1030000100000000)).main = .idle ∧ decode 0x1030000100000000 = .illegal .constraint := by decide

/-- The main path waits in a CDSTART, a word or a tick is next, and a step exists. -/
def waitingInStart (x : Turn) : State :=
  { turn (live .int16) x with
    run := true, wState := .starting, cdDiv := 2, main := .awaitReady 0x3100000000000000 }

theorem witness_WaitingMainPathTakesNoWordAndNoTick :
    ((waitingInStart .timer).main ≠ .idle ∧ ∃ t, step (waitingInStart .timer) = .next t) ∧
    (waitingInStart (.command 0)).main ≠ .idle ∧ ∃ t, step (waitingInStart (.command 0)) = .next t :=
  ⟨⟨by decide, _, rfl⟩, by decide, _, rfl⟩

theorem witness_LifeDecidesAcceptance :
    encode (.tick .effects) = some 0x1100000000000000 ∧ accepts inited.life (.tick .effects) = false ∧
    accepts (live .int16).life (.tick .effects) = true := by decide

theorem witness_OnlyCommandsWriteStatus : encode .cdsig = none ∧ ∃ t, exec .cdsig (waiting .int16) = .next t :=
  ⟨rfl, _, rfl⟩

theorem witness_OverflowFlagIsSticky :
    (∃ t, exec .teardown { live .int16 with accOvf := true } = .next t) ∧
    ({ live .int16 with accOvf := true } : State).accOvf = true := ⟨⟨_, rfl⟩, rfl⟩

theorem witness_InitCreatesContext : power.life = .uninit ∧ inited.life ≠ .uninit := by decide

theorem witness_ResetMakesFreshStreams :
    inited.life ≠ .uninit ∧ inited.allocOk = true ∧
    ∀ st, inited.cfg.rate.get st ≠ 0 ∧ inited.now.toNat + inited.cfg.timeHz / inited.cfg.rate.get st < 2 ^ 64 :=
  ⟨by decide, rfl, fun st => by cases st <;> decide⟩

/-- The three cases of its chain: a drive enabled and no worker, no drive and a worker, neither. -/
theorem witness_ResetMakesFreshStreams_cases :
    (0 < enabledDrives { inited with drives := [drive0 1 2, DriveIn.off] } ∧ inited.cdEnable = false) ∧
    (enabledDrives (waiting .int16) = 0 ∧ (waiting .int16).cdEnable = true) ∧
    enabledDrives inited = 0 ∧ inited.cdEnable = false := by decide

theorem witness_FailedAllocationAbortsReset :
    ({ inited with allocOk := false } : State).life ≠ .uninit ∧ inited.cdEnable = false ∧
    ({ waiting .int16 with allocOk := false } : State).allocOk = false ∧ (waiting .int16).cdEnable = true := by decide

theorem witness_FormatChangeIsAReset :
    power.life = .uninit ∧ (live .int16).life ≠ .uninit ∧ Fmt.int16 = (live .int16).fmt ∧ Fmt.float ≠ (live .int16).fmt := by decide

theorem witness_TeardownDestroysContext : power.cdEnable = false ∧ (waiting .int16).cdEnable = true := by decide

/-- The worker has exited and the main path is next. -/
def exited (k : AfterStop) : State :=
  { turn (waiting .int16) .main with run := false, wState := .exited, main := .awaitExit k 0x3200000000000000 }

theorem witness_StopReleasesWorkerThenFinishes (k : AfterStop) :
    (exited k).agenda = .main :: [] ∧ (exited k).main = .awaitExit k 0x3200000000000000 ∧ (exited k).wState = .exited :=
  ⟨rfl, rfl, rfl⟩

theorem witness_RegisterAppendsUpToEight :
    inited.life ≠ .active ∧ (live .int16).life = .active ∧ ((live .int16).handlers.get .music).length ≠ 8 ∧
    (({ live .int16 with handlers := ⟨[], List.replicate 8 ⟨1, 1⟩, []⟩ } : State).handlers.get .music).length = 8 := by
  decide

theorem witness_TickAdvancesOrFlushes :
    (live .int16).life = .active ∧ (live .int16).pos.get .music + 1 ≠ (live .int16).cfg.bufLen.get .music ∧
    ({ live .int16 with pos := ⟨0, 2, 0⟩ } : State).pos.get .music + 1 = (live .int16).cfg.bufLen.get .music := by decide

/-- Two handlers with a fixed answer each, the second at the edge of the 16-bit range. -/
def twoSources : State :=
  { live .int16 with handlers := ⟨[⟨1, 0⟩, ⟨2, 0⟩], [], []⟩,
                     answers := ⟨[[100, -100, 30000, -30000], [32767, -32768, 10000, -10000]], [], []⟩ }

theorem witness_FlushDeliversExactSums :
    twoSources.answers.source.length = (twoSources.handlers.get .effects).length ∧
    (∀ v ∈ twoSources.answers.source, v.length = streamSize twoSources .effects) ∧
    twoSources.answers.source = twoSources.answers.source ++ [] ∧
    after (exec (.flush .effects) twoSources) (fun t => t.accOvf) = some false := by
  refine ⟨by decide, by simp [twoSources, streamSize, live, inited, power, cfgT, PerStream.get], by simp, by decide⟩

theorem witness_EightSixteenBitSourcesNeverOverflow :
    twoSources.answers.source.length = (twoSources.handlers.get .effects).length ∧
    (∀ v ∈ twoSources.answers.source, v.length = streamSize twoSources .effects) ∧
    twoSources.answers.source = twoSources.answers.source ++ [] ∧ twoSources.answers.source.length ≤ 8 ∧
    (∀ v ∈ twoSources.answers.source, ∀ x ∈ v, -32768 ≤ x.toInt ∧ x.toInt ≤ 32767) ∧ twoSources.accOvf = false := by
  refine ⟨by decide, by simp [twoSources, streamSize, live, inited, power, cfgT, PerStream.get], by simp, by decide, ?_, rfl⟩
  intro v hv x hx
  simp only [twoSources, List.mem_cons, List.not_mem_nil, or_false] at hv
  rcases hv with rfl | rfl <;> simp only [List.mem_cons, List.not_mem_nil, or_false] at hx <;>
    rcases hx with rfl | rfl | rfl | rfl <;> decide

theorem witness_FlushTouchesOneStream : Stream.music ≠ .effects := by decide

theorem witness_PeriodRunsToOneFlush :
    (live .int16).life = .active ∧ (live .int16).pos.get .music < (live .int16).cfg.bufLen.get .music ∧
    ({ live .int16 with pos := ⟨0, 2, 0⟩ } : State).pos.get .music < (live .int16).cfg.bufLen.get .music := by decide

theorem witness_SpeedChangeKeepsDeadlines :
    inited.life ≠ .active ∧ (live .int16).life = .active ∧
    ∀ st, (live .int16).cfg.rate.get st ≠ 0 ∧ (live .int16).cfg.timeHz / (live .int16).cfg.rate.get st < 2 ^ 64 :=
  ⟨by decide, rfl, fun st => by cases st <;> decide⟩

theorem witness_TimeMovesForwardOnly :
    power.now.toNat ≤ (0 : Time).toNat ∧ (0 : Time).toNat < ({ power with now := 1 } : State).now.toNat := by decide

/-- Streams 0 and 1 are due, stream 1 first. -/
def twoDue : State := { turn (live .int16) .timer with now := 35, deadline := ⟨30, 20, 40⟩ }

theorem witness_TimerTurnFiresOneTick :
    twoDue.agenda = .timer :: [] ∧ twoDue.main = .idle ∧ nextDue twoDue = some .music ∧
    (twoDue.deadline.get .music).toNat + (twoDue.latch.get .music).toNat < 2 ^ 64 ∧
    twoDue.pos.get .music + 1 ≠ twoDue.cfg.bufLen.get .music ∧
    ({ twoDue with pos := ⟨0, 2, 0⟩ } : State).pos.get .music + 1 = twoDue.cfg.bufLen.get .music := by decide

theorem witness_DeadlinesDoNotDrift :
    ((live .int16).deadline.get .effects).toNat + 3 * ((live .int16).latch.get .effects).toNat < 2 ^ 64 := by decide

theorem witness_CheckConvergesToDriveCount :
    (live .int16).life = .active ∧
    (0 < enabledDrives { live .int16 with drives := [DriveIn.off, drive0 1 2] } ∧ (live .int16).cdEnable = false) ∧
    (enabledDrives (waiting .int16) = 0 ∧ (waiting .int16).cdEnable = true) ∧
    (enabledDrives (live .int16) = 0 ∧ (live .int16).cdEnable = false) := by decide

theorem witness_StartCreatesWorkerOnce :
    (live .int16).life = .active ∧ (waiting .int16).cdEnable = true ∧ (live .int16).cdEnable = false := by decide

theorem witness_StopIsIdempotent : power.cdEnable = false ∧ (waiting .int16).cdEnable = true := by decide

theorem witness_StartHandshakeCompletes :
    (live .int16).life = .active ∧ (live .int16).cdEnable = false ∧ (live .int16).agenda = [] := by decide

theorem witness_SignalDividesByN :
    (live .int16).cdEnable = false ∧ ((waiting .int16).cdEnable = true ∧ 1 < (waiting .int16).cdDiv) ∧
    ({ waiting .int16 with cdDiv := 1 } : State).cdDiv = 1 ∧ 1 ≤ (waiting .int16).cdDiv ∧ Stream.music ≠ .effects := by
  decide

theorem witness_ReadySignalsStart : ({ live .int16 with wState := .starting } : State).wState = .starting := rfl

theorem witness_WakeTakesTokenAndLatches :
    (({ waiting .int16 with sig := true, run := false } : State).run = false ∧
      ({ waiting .int16 with sig := true, run := false } : State).sig = true) ∧
    ((waiting .int16).wState = .waiting ∧ (waiting .int16).run = true ∧ (waiting .int16).sig = false) ∧
    ({ waiting .int16 with sig := true } : State).sig = true := by decide

theorem witness_PassClearsThenDelivers :
    (mixing .int16).wState = .mixing ∧ (mixing .int16).mixPos = .clear ∧
    ({ mixing .int16 with mixPos := .deliver } : State).mixPos = .deliver := by decide

/-- A pass at drive 1, which is enabled and playing with no volume control, over a cleared block. -/
def atDrive1 (r : Nat) : State :=
  mixingAt .int16 1 (Block.zeros .int16 4) [DriveIn.off, ⟨true, true, false, 0, 0, 3, 2⟩] (r, [30000, 30000, -5, 7])

theorem witness_SilentDriveContributesNothing :
    ((mixingAt .int16 0 (Block.zeros .int16 4) [DriveIn.off, DriveIn.off] (0, [])).mixPos = .drive 0 ∧
      (driveAt (atDrive1 0) 0).busEn = false) ∧
    ((atDrive1 0).wState = .mixing ∧ (atDrive1 0).mixPos = .drive 1 ∧ (driveAt (atDrive1 0) 1).busEn = true ∧
      (driveAt (atDrive1 0) 1).playing = true ∧
      (atDrive1 0).answers.decode = [((0, [30000, 30000, -5, 7]) : Nat × List I16)] ∧
      ([30000, 30000, -5, 7] : List I16).length = cdSize (atDrive1 0)) := by decide

theorem witness_DriveIsMixedElementByElement :
    (atDrive1 2).wState = .mixing ∧ (atDrive1 2).mixPos = .drive 1 ∧ (driveAt (atDrive1 2) 1).busEn = true ∧
    (driveAt (atDrive1 2) 1).playing = true ∧
    (atDrive1 2).answers.decode = [((2, [30000, 30000, -5, 7]) : Nat × List I16)] ∧
    ([30000, 30000, -5, 7] : List I16).length = cdSize (atDrive1 2) ∧
    (atDrive1 2).mem.read .voltab 255 = some (.f64 0x3FF0000000000000) ∧
    (atDrive1 2).mem.cdout.length = cdSize (atDrive1 2) ∧ (atDrive1 2).mem.cdout.fmt = (atDrive1 2).wFmt ∧
    (atDrive1 2).wFilt.cb = 0 := by decide +kernel

/-- The same with a filter latched and its four answers fixed, one of them an infinity. -/
theorem witness_DriveIsMixedElementByElement_filter :
    ({ atDrive1 2 with wFilt := ⟨5, 0⟩, answers := ⟨[], [], [0, 0x3FF0000000000000, 0x7FF0000000000000, 0]⟩ } :
      State).wFilt.cb ≠ 0 ∧
    cdSize (atDrive1 2) ≤ ([0, 0x3FF0000000000000, 0x7FF0000000000000, 0] : List F64).length := by decide

/-- U4: that infinity has no integer conversion, so element 2 falls under the clause of a free element. -/
theorem witness_DriveIsMixedElementByElement_nonfinite :
    (atDrive1 2).wFmt = .int16 ∧ (atDrive1 2).mem.read .cdout 2 = some (.int16 0) ∧
    Num.f2i (atDrive1 2).cfg.num 0x7FF0000000000000 = none := by decide

/-- The bounds of R213's finite results: the largest product R186 can form, and two addends of `2^126` less one unit in the
last place. -/
theorem witness_AddingToSilenceIsExact_bounds :
    Num.isFinite64 0xC0F0000000000000 = true ∧ (Num.val64 0xC0F0000000000000).natAbs = 2 ^ 16 * 2 ^ 1074 ∧
    Num.isFinite32 0x7E7FFFFF = true ∧
    (Num.val32 0x7E7FFFFF + Num.val32 0x7E7FFFFF).natAbs < 2 ^ 127 * 2 ^ 149 := by decide +kernel

theorem witness_FullVolumeDriveIsRoutedExactly :
    (driveAt (atDrive1 2) 1).hasVol = false ∧ (atDrive1 2).wFilt.cb = 0 ∧ (atDrive1 2).wFmt = .int16 ∧
    (atDrive1 2).mem.cdout = Block.zeros .int16 (cdSize (atDrive1 2)) ∧ (atDrive1 2).cfg.num = .ieee ∧
    (2 : BitVec 2) ≠ 3 ∧ -32768 ≤ (-5 : I16).toInt + (7 : I16).toInt ∧ (-5 : I16).toInt + (7 : I16).toInt ≤ 32767 := by
  decide

theorem witness_PassWithoutDrivesDeliversSilence :
    (mixing .int16).wState = .mixing ∧ (mixing .int16).mixPos = .clear ∧
    ∀ d, d < (mixing .int16).cfg.cdromNum →
      (driveAt (mixing .int16) d).busEn = false ∨ (driveAt (mixing .int16) d).playing = false := by decide

theorem witness_PassSeesOnlyItsLatches : ∃ t, exec .wmix (mixing .int16) = .next t := ⟨_, rfl⟩

theorem witness_WorkerWritesOnlyItsOwn :
    (∃ t, exec .wready { live .int16 with wState := .starting } = .next t) ∧
    (∃ t, exec .wwake { waiting .int16 with sig := true } = .next t) ∧ ∃ t, exec .wmix (mixing .int16) = .next t :=
  ⟨⟨_, rfl⟩, ⟨_, rfl⟩, _, rfl⟩

theorem witness_CommandsLeaveWorkerState :
    (encode .cdcheck).isSome = true ∧ ∃ t, exec .cdcheck (waiting .int16) = .next t := ⟨rfl, _, rfl⟩

theorem witness_CdVolumeIsStored :
    power.life = .uninit ∧ inited.life ≠ .uninit ∧ (∃ t, exec .wmix (mixing .int16) = .next t) ∧
    ∃ t, exec (.flush .music) (live .int16) = .next t := ⟨rfl, by decide, ⟨_, rfl⟩, _, rfl⟩

theorem witness_FilterInstallsOnlyIntoEmptySlot :
    power.life = .uninit ∧ inited.life ≠ .uninit ∧ (inited.filt.get .cd).cb = 0 ∧ (5 : Cb) ≠ 0 ∧
    (({ inited with filt := ⟨⟨0, 0⟩, ⟨0, 0⟩, ⟨0, 0⟩, ⟨5, 0⟩⟩ } : State).filt.get .cd).cb ≠ 0 := by decide

theorem witness_ReplacingAFilterTakesTwoCommands : inited.life ≠ .uninit ∧ (6 : Cb) ≠ 0 := by decide

/-- Bounds of the numeric statements: `2^24`, the largest magnitude, the two ends of a routed sum, the largest finite value,
infinity, the zeros, NaNs, the first values the clamp changes; then an integral value that the int16 range ends at. -/
theorem witness_numeric_bounds :
    (16777216 : I32).toInt.natAbs ≤ 2 ^ 24 ∧
    (2 ^ (23 + 8) ≤ (0x80000000 : I32).toInt.natAbs ∧ (0x80000000 : I32).toInt.natAbs < 2 ^ (24 + 8)) ∧ (-65536 : Int) ≤ -65536 ∧ (65534 : Int) ≤ 65534 ∧
    Num.isFinite64 0x7FEFFFFFFFFFFFFF = true ∧ Num.isFinite64 0x7FF0000000000000 = false ∧
    (Num.isFinite32 0x80000000 = true ∧ Num.val32 0x80000000 = 0) ∧ Num.val64 0x8000000000000000 = 0 ∧
    Num.isNan32 0x7F800001 = true ∧ Num.isNan64 0x7FF0000000000001 = true ∧ (Num.isFinite32 0x7F7FFFFF = true ∧ (0x7F7FFFFF : F32) ≠ 0x80000000) ∧
    ((-32769 : Int) < -32768 ∧ (32767 : Int) < 32768) := by decide

theorem witness_UnityAndZeroGain_integer :
    Num.isFinite64 0xC0E0000000000000 = true ∧ Num.val64 0xC0E0000000000000 = (-32768 : I16).toInt * 2 ^ 1074 := by
  decide +kernel

/-! The invariant in the small states -/

theorem inv_live (f : Fmt) : Inv (live f) where
  cfg := by cases f <;> decide +kernel
  mem := by cases f <;> decide +kernel
  pos := fun st => by cases f <;> cases st <;> decide
  count := fun st => by cases st <;> exact Nat.zero_le 8
  named := fun st h hh => by cases st <;> cases hh
  slots := rfl
  table := fun _ => rfl
  timers := fun st => by cases st <;> rfl
  streams := fun _ _ st => by cases f <;> cases st <;> exact ⟨rfl, rfl⟩
  worker := ⟨rfl, .inl ⟨rfl, rfl⟩⟩
  divider := fun h => absurd rfl h
  pass := ⟨fun _ => rfl, fun _ h => (nomatch h), fun h => absurd rfl h⟩
  formats := ⟨fun st => by cases f <;> cases st <;> rfl, rfl⟩

theorem inv_waiting (f : Fmt) : Inv (waiting f) :=
  { inv_live f with
    mem := by cases f <;> decide +kernel
    formats := ⟨(inv_live f).formats.1, by cases f <;> rfl⟩
    worker := ⟨rfl, .inr ⟨rfl, rfl, rfl, .inl rfl⟩⟩
    divider := fun _ => ⟨by show 1 ≤ 2; decide, by show 2 ≤ 2; decide⟩
    pass := ⟨fun _ => rfl, fun _ h => (nomatch h), fun h => absurd rfl h⟩ }

theorem inv_mixing (f : Fmt) : Inv (mixing f) :=
  { inv_waiting f with
    worker := ⟨rfl, .inr ⟨rfl, rfl, rfl, .inr rfl⟩⟩
    divider := fun _ => ⟨by show 1 ≤ 2; decide, by show 2 ≤ 2; decide⟩
    pass := ⟨fun h => absurd rfl h, fun _ h => (nomatch h), fun h => absurd rfl h⟩ }

theorem witness_EveryPassDeliversOneBlock :
    Inv (mixing .float) ∧ (mixing .float).wState = .mixing ∧ (mixing .float).mixPos = .clear :=
  ⟨inv_mixing .float, rfl, rfl⟩

theorem witness_StopJoinsWorker :
    (Inv (waiting .int16) ∧ (waiting .int16).main = .idle ∧ (waiting .int16).agenda = [] ∧
      (waiting .int16).cdEnable = true ∧ (waiting .int16).wState = .waiting) ∧
    (Inv (mixing .int16) ∧ (mixing .int16).wState = .mixing) :=
  ⟨⟨inv_waiting .int16, rfl, rfl, rfl, rfl⟩, inv_mixing .int16, rfl⟩

theorem witness_StepKeepsInvariant : Inv (live .int16) ∧ ∃ t, step (live .int16) = .next t := ⟨inv_live .int16, _, rfl⟩

/-- I-a of R47 in a state that is not live: a failed format change, and INIT after a TEARDOWN in the other format. -/
theorem test_formats_outside_active :
    after (exec (.setfmt .int16) { live .float with allocOk := false })
      (fun t => [t.mem.out.effects.fmt, t.mem.out.wavetable.fmt, t.fmt]) = some [.int16, .int16, .int16] ∧
    after (exec .init { live .int16 with life := .uninit }) (fun t => [t.mem.out.effects.fmt, t.fmt]) =
      some [.float, .float] := by decide +kernel

theorem witness_InvariantExcludesFaults : Inv (mixing .int16) := inv_mixing .int16

/-- In the middle of a start handshake, and with a suspended worker and nothing due. -/
theorem witness_WaitsDoNotDeadlock :
    Inv (waitingInStart .timer) ∧ (waitingInStart .timer).main ≠ .idle ∧ finished (waiting .int16) = true ∧
    (waiting .int16).agenda = [] :=
  ⟨{ inv_live .int16 with
      worker := ⟨rfl, rfl, rfl, rfl, .inl ⟨rfl, rfl⟩⟩
      divider := fun _ => ⟨by show 1 ≤ 2; decide, by show 2 ≤ 2; decide⟩
      pass := ⟨fun _ => rfl, fun _ h => (nomatch h), fun h => absurd rfl h⟩ }, by decide, by decide, rfl⟩

theorem witness_ParametersAreFixed :
    ∃ t, step (turn (live .int16) (.env (.timeHz 2000))) = .next t ∧ t.cfg ≠ (live .int16).cfg := ⟨_, rfl, by decide⟩

theorem witness_HistoryOnlyGrows : ∃ t, step (turn (live .int16) (.command 0x1100000000000000)) = .next t := ⟨_, rfl⟩

end Sys2Proof.Tests
end

section
/-! O59: no operation writes the configuration record, and of the environment's moves one writes `P_TIME_HZ`. -/

namespace Sys2Proof.Machine

/-! The configuration after each operation, from the lemmas that say what the operation can do. -/

@[simp] theorem cdSignal_cfg (s : State) : (cdSignal s).cfg = s.cfg := by
  obtain ⟨_, _, _, _, e, _⟩ := cdSignal_shape s
  rw [e]

@[simp] theorem flush_cfg (st : Stream) (s : State) : (flush st s).cfg = s.cfg := by
  obtain ⟨_, _, _, _, _, _, _, _, e, _⟩ := flush_shape st s
  rw [e]

@[simp] theorem tickBody_cfg (st : Stream) (s : State) : (tickBody st s).cfg = s.cfg := by
  obtain ⟨_, e⟩ | ⟨_, _, _, _, _, _, _, _, _, e, _⟩ := tickBody_cases st s <;> rw [e]

@[simp] theorem fireDue_cfg (s : State) : (fireDue s).cfg = s.cfg := by
  unfold fireDue
  split
  · simp [fireTick]
  · rfl

@[simp] theorem startBody_cfg (w : Word) (s : State) : (startBody w s).cfg = s.cfg := by
  unfold startBody
  split_ifs <;> rfl

@[simp] theorem afterReady_cfg (w : Word) (s : State) : (afterReady w s).cfg = s.cfg := rfl

@[simp] theorem afterStop_cfg (k : AfterStop) (w : Word) (s : State) : (afterStop k w s).cfg = s.cfg := by
  cases k <;> rfl

@[simp] theorem stopBody_cfg (k : AfterStop) (w : Word) (s : State) : (stopBody k w s).cfg = s.cfg := by
  unfold stopBody
  split_ifs <;> simp

@[simp] theorem afterExit_cfg (k : AfterStop) (w : Word) (s : State) : (afterExit k w s).cfg = s.cfg := by
  simp [afterExit]

@[simp] theorem resume_cfg (s : State) : (resume s).cfg = s.cfg := by
  unfold resume
  split_ifs
  · split <;> simp
  · rfl

@[simp] theorem sampleBuses_cfg (s : State) : (sampleBuses s).cfg = s.cfg := by
  obtain ⟨_, e⟩ := sampleBuses_shape s
  rw [e]

@[simp] theorem checkBody_cfg (w : Word) (s : State) : (checkBody w s).cfg = s.cfg := by
  unfold checkBody
  dsimp only
  split_ifs <;> simp

@[simp] theorem resetBody_cfg (w : Word) (s : State) : (resetBody w s).cfg = s.cfg := by
  unfold resetBody
  dsimp only
  split_ifs <;> simp [freshStreams]

/-- If the operation completes, the configuration record is that of `s`. -/
def KeepsCfg (s : State) (o : Out) : Prop := ∀ t, o = .next t → t.cfg = s.cfg

@[simp] theorem keepsCfg_next {s t : State} : KeepsCfg s (.next t) ↔ t.cfg = s.cfg :=
  ⟨fun h => h t rfl, fun h _ e => Host.Outcome.next.inj e ▸ h⟩

@[simp] theorem keepsCfg_refused (s : State) (r : Refusal) : KeepsCfg s (.refused r) := fun _ e => nomatch e

@[simp] theorem keepsCfg_raiseStatus (w : Word) (st : Status) (s : State) : KeepsCfg s (raiseStatus w st s) :=
  keepsCfg_next.2 rfl

@[simp] theorem keepsCfg_ite {s : State} {c : Prop} [Decidable c] {a b : Out} :
    KeepsCfg s (if c then a else b) ↔ (c → KeepsCfg s a) ∧ (¬c → KeepsCfg s b) := by
  split_ifs with h <;> simp [h]

/-- W.MIX, whichever sub-step it takes. -/
theorem execWmix_keepsCfg (s : State) : KeepsCfg s (execWmix s) := by
  intro t h
  obtain ⟨_, rfl⟩ | ⟨_, _, rfl⟩ | ⟨d, _, _, e⟩ | ⟨_, _, rfl⟩ := execWmix_next h
  · rfl
  · rfl
  · obtain ⟨_, _, _, _, _, _, rfl, _⟩ := mixDrive_next e
    rfl
  · rfl

/-- No operation of R3 writes the configuration record. -/
theorem exec_keepsCfg (i : Instr) (s : State) : KeepsCfg s (exec i s) := by
  cases i with
  | init => simp [exec, execInit]
  | reset => simp [exec, execReset]
  | setfmt f => simp [exec, execSetfmt]
  | teardown => simp [exec, execTeardown]
  | regh st cb ctx => simp [exec, execRegh]
  | tick st => simp [exec, execTick]
  | speedchg => simp [exec, execSpeedchg]
  | setcdvol left right => simp [exec, execSetcdvol]
  | setfilt k cb ctx => simp [exec, execSetfilt]
  | cdcheck => simp [exec, execCdcheck]
  | cdstart => simp [exec, execCdstart]
  | cdstop => simp [exec, execCdstop]
  | flush st => simp [exec, execFlush]
  | cdsig => simp [exec, execCdsig]
  | timeadv t => simp [exec, execTimeadv]
  | wready => simp [exec, execWready]
  | wwake => simp [exec, execWwake]
  | wmix => exact execWmix_keepsCfg s

/-! The turns of the schedule (R67). -/

theorem workerTurn_keepsCfg (s : State) : KeepsCfg s (workerTurn s) := by
  unfold workerTurn
  split
  · exact exec_keepsCfg _ s
  · exact exec_keepsCfg _ s
  · exact exec_keepsCfg _ s
  · simp
  · simp

theorem waitTurn_keepsCfg (s : State) : KeepsCfg s (waitTurn s) := by
  unfold waitTurn
  split_ifs
  · simp
  · exact workerTurn_keepsCfg s

theorem acceptWord_keepsCfg (w : Word) (s : State) : KeepsCfg s (acceptWord w s) := by
  unfold acceptWord
  split
  · exact exec_keepsCfg _ s
  · simp

theorem restTurn_keepsCfg (s : State) : KeepsCfg s (restTurn s) := by
  unfold restTurn
  split_ifs
  · exact waitTurn_keepsCfg s
  · exact workerTurn_keepsCfg s
  · simp

/-- A move of the environment keeps the record, or is the one that sets `P_TIME_HZ` (R150). -/
theorem environmentTurn_cfg {m : EnvMove} {s t : State} (h : environmentTurn m s = .next t) :
    t.cfg = s.cfg ∨ ∃ n, m = .timeHz n ∧ t.cfg = { s.cfg with timeHz := n } := by
  cases m with
  | now u => exact .inl (exec_keepsCfg (.timeadv u) s t h)
  | timeHz n =>
    unfold environmentTurn at h
    dsimp only at h
    split_ifs at h
    exact .inr ⟨n, rfl, Host.Outcome.next.inj h ▸ rfl⟩
  | drive d x =>
    unfold environmentTurn at h
    dsimp only at h
    split_ifs at h
    exact .inl (Host.Outcome.next.inj h ▸ rfl)
  | allocOk b => exact .inl (Host.Outcome.next.inj h ▸ rfl)
  | source v => exact .inl (Host.Outcome.next.inj h ▸ rfl)
  | decode r blk => exact .inl (Host.Outcome.next.inj h ▸ rfl)
  | filter x => exact .inl (Host.Outcome.next.inj h ▸ rfl)

/-- A step keeps the record, or is the environment's move of `P_TIME_HZ` from the head of the agenda. -/
theorem step_cfg {s t : State} (h : step s = .next t) :
    t.cfg = s.cfg ∨ ∃ n rest, s.agenda = .env (.timeHz n) :: rest ∧ t.cfg = { s.cfg with timeHz := n } := by
  unfold step takeTurn at h
  split at h
  case h_1 => exact .inl (restTurn_keepsCfg s t h)
  case h_2 w rest _ =>
    split_ifs at h
    · exact .inl (acceptWord_keepsCfg w { s with agenda := rest } t h)
    · exact .inl (waitTurn_keepsCfg s t h)
  case h_3 rest _ =>
    split_ifs at h
    · exact .inl (by rw [← Host.Outcome.next.inj h, fireDue_cfg])
    · exact .inl (waitTurn_keepsCfg s t h)
  case h_4 => exact .inl (by rw [← Host.Outcome.next.inj h, resume_cfg])
  case h_5 rest _ => exact .inl (workerTurn_keepsCfg { s with agenda := rest } t h)
  case h_6 m rest ha =>
    obtain e | ⟨n, rfl, e⟩ := environmentTurn_cfg h
    · exact .inl e
    · exact .inr ⟨n, rest, ha, e⟩

/-- Settles O59: a step keeps the record or is the environment's move of `P_TIME_HZ`. -/
theorem parametersAreFixed : Obligations.ParametersAreFixed := by
  intro s t h
  obtain e | ⟨n, rest, ha, e⟩ := step_cfg h
  · exact ⟨by rw [e], fun hne => absurd e hne⟩
  · exact ⟨by rw [e], fun _ => ⟨n, rest, ha, by rw [e]⟩⟩

end Sys2Proof.Machine
end

section
/-! Packing a magnitude (R213), beyond the laws of `packMag` above: what is already representable is not rounded, a
finite pattern comes back from its magnitude, and no magnitude but 0 rounds to 0. -/

namespace Sys2Proof.Machine.Num

/-- Scaling by a power of two commutes with rounding. -/
theorem rne_mul_two_pow (n k j : Nat) : rne (n * 2 ^ j) (k + j) = rne n k := by
  have hj := Nat.two_pow_pos j
  unfold rne
  rw [pow_add, Nat.mul_div_mul_right _ _ hj, Nat.mul_mod_mul_right]
  simp only [← mul_assoc, Nat.mul_lt_mul_right hj, Nat.mul_left_inj hj.ne']

/-- A packed magnitude that came out finite unpacks to the rounded magnitude. -/
theorem unpackMag_packMag {p inf n : Nat} (hp : 1 ≤ p) (h : packMag p inf 0 n < inf) :
    unpackMag p (packMag p inf 0 n) = rne n (n.log2 + 1 - p) * 2 ^ (n.log2 + 1 - p) := by
  refine (packMag_value hp ?_).2
  simpa [packMag] using h

/-- Scaling by a power of two moves the leading bit. -/
theorem log2_mul_two_pow {m : Nat} (h : m ≠ 0) (k : Nat) : (m * 2 ^ k).log2 = m.log2 + k := by
  rw [Nat.log2_eq_iff (mul_ne_zero h (Nat.two_pow_pos k).ne')]
  have hk := Nat.two_pow_pos k
  constructor
  · rw [pow_add]
    exact Nat.mul_le_mul_right _ (Nat.log2_self_le h)
  · rw [show m.log2 + k + 1 = m.log2 + 1 + k by omega, pow_add]
    exact Nat.mul_lt_mul_of_pos_right Nat.lt_log2_self hk

/-- A magnitude of at most `p` significant bits is a multiple of its spacing. -/
theorem spacing_dvd {p m : Nat} (hp : 1 ≤ p) (hm : m ≤ 2 ^ p) (k : Nat) :
    2 ^ ((m * 2 ^ k).log2 + 1 - p) ∣ m * 2 ^ k := by
  rcases Nat.eq_zero_or_pos m with rfl | hpos
  · simp
  rw [log2_mul_two_pow hpos.ne']
  rcases Nat.lt_or_eq_of_le hm with h | rfl
  · have : m.log2 < p := (Nat.log2_lt hpos.ne').2 h
    exact Dvd.dvd.mul_left (pow_dvd_pow 2 (by omega)) m
  · rw [← pow_add]
    exact pow_dvd_pow 2 (by rw [Nat.log2_two_pow]; omega)

/-- A magnitude of at most `p` significant bits is packed exactly. -/
theorem unpackMag_packMag_exact {p inf m k : Nat} (hp : 1 ≤ p) (hm : m ≤ 2 ^ p)
    (h : packMag p inf 0 (m * 2 ^ k) < inf) : unpackMag p (packMag p inf 0 (m * 2 ^ k)) = m * 2 ^ k := by
  rw [unpackMag_packMag hp h, rne_of_dvd (spacing_dvd hp hm k)]

/-- No magnitude but 0 is rounded to 0. -/
theorem rne_ne_zero {p n : Nat} (hp : 1 ≤ p) (hn : n ≠ 0) : rne n (n.log2 + 1 - p) ≠ 0 := by
  intro h0
  have hr := (rne_nearest n (n.log2 + 1 - p)).2.1
  rw [h0] at hr
  have hpow : 2 ^ (n.log2 + 1 - p) ≤ 2 ^ n.log2 := Nat.pow_le_pow_right (by omega) (by omega)
  have := Nat.log2_self_le hn
  omega

/-- A packed magnitude that came out finite is 0 only for 0. -/
theorem unpackMag_packMag_eq_zero {p inf n : Nat} (hp : 1 ≤ p) (h : packMag p inf 0 n < inf) :
    unpackMag p (packMag p inf 0 n) = 0 ↔ n = 0 := by
  rw [unpackMag_packMag hp h]
  constructor
  · intro h0
    by_contra hn
    exact mul_ne_zero (rne_ne_zero hp hn) (Nat.two_pow_pos _).ne' h0
  · rintro rfl
    rw [rne_of_dvd (dvd_zero _)]

theorem packMag_zero {p : Nat} (hp : 1 ≤ p) (inf extra : Nat) : packMag p inf extra 0 = 0 := by
  have h0 : rne 0 extra = 0 :=
    (Nat.mul_eq_zero.1 (rne_of_dvd (dvd_zero _))).resolve_right (Nat.two_pow_pos extra).ne'
  have hsh : max (1 - p) extra = extra := by omega
  simp [packMag, hsh, h0]

theorem packMag_le (p inf extra n : Nat) : packMag p inf extra n ≤ inf := min_le_left _ _

/-- The spacing of the magnitude of a pattern is one unit of its last fraction bit, and the magnitude is a multiple. -/
theorem unpackMag_eq_mul {p b : Nat} (hp : 1 ≤ p) : ∃ e q, unpackMag p b = q * 2 ^ e ∧ b = e * 2 ^ (p - 1) + q ∧
    q < 2 ^ p ∧ (e = 0 ∨ 2 ^ (p - 1) ≤ q) := by
  have hdiv := Nat.div_add_mod b (2 ^ (p - 1))
  have hmod := Nat.mod_lt b (Nat.two_pow_pos (p - 1))
  have hp2 : 2 * 2 ^ (p - 1) = 2 ^ p := mul_pow_sub_one (by omega) 2
  unfold unpackMag
  dsimp only
  generalize b / 2 ^ (p - 1) = e at *
  generalize b % 2 ^ (p - 1) = f at *
  cases e with
  | zero => exact ⟨0, f, by simp, by omega, by omega, .inl rfl⟩
  | succ e =>
    refine ⟨e, f + 2 ^ (p - 1), by simp, ?_, by omega, .inr (by omega)⟩
    rw [← hdiv]
    ring

/-- Packing the magnitude of a finite pattern gives the pattern. -/
theorem packMag_unpackMag {p inf b : Nat} (hp : 1 ≤ p) (h : b < inf) : packMag p inf 0 (unpackMag p b) = b := by
  obtain ⟨e, q, hval, hb, hq, hn⟩ := unpackMag_eq_mul (b := b) hp
  rcases Nat.eq_zero_or_pos q with rfl | hpos
  · have := Nat.two_pow_pos (p - 1)
    obtain rfl : e = 0 := by omega
    rw [hval, Nat.zero_mul, packMag_zero hp]
    omega
  have hlt : q.log2 < p := (Nat.log2_lt hpos.ne').2 hq
  have hsh : (q * 2 ^ e).log2 + 1 - p = e := by
    rw [log2_mul_two_pow hpos.ne']
    rcases hn with rfl | hn
    · omega
    · have : p - 1 ≤ q.log2 := (Nat.le_log2 hpos.ne').2 hn
      omega
  have hr : rne (q * 2 ^ e) e = q := Nat.mul_right_cancel (Nat.two_pow_pos e) (rne_of_dvd (dvd_mul_left _ _))
  rw [hval]
  simp [packMag, hsh, hr, ← hb, h.le]

/-- A pattern no larger than a power of two's has a magnitude no larger than that power. -/
theorem unpackMag_le {p b e : Nat} (hp : 1 ≤ p) (h : b ≤ (e + 1) * 2 ^ (p - 1)) :
    unpackMag p b ≤ 2 ^ (p - 1 + e) := by
  obtain ⟨e', q, hval, hb, hq, hn⟩ := unpackMag_eq_mul (b := b) hp
  have hp2 : 2 * 2 ^ (p - 1) = 2 ^ p := mul_pow_sub_one (by omega) 2
  have hpos := Nat.two_pow_pos (p - 1)
  rw [hval]
  have he : e' ≤ e := by
    by_contra hlt
    have : (e + 1) * 2 ^ (p - 1) ≤ e' * 2 ^ (p - 1) := Nat.mul_le_mul_right _ (by omega)
    omega
  rcases Nat.lt_or_eq_of_le he with hlt | rfl
  · calc q * 2 ^ e' ≤ 2 ^ p * 2 ^ e' := Nat.mul_le_mul_right _ hq.le
      _ = 2 ^ (p + e') := (pow_add 2 p e').symm
      _ ≤ 2 ^ (p - 1 + e) := Nat.pow_le_pow_right (by omega) (by omega)
  · rw [Nat.add_one_mul] at h
    rw [pow_add]
    exact Nat.mul_le_mul_right _ (by omega)

end Sys2Proof.Machine.Num
end

section
/-! Patterns (R9): sign, magnitude and value of a pattern, and the classes of finite patterns and NaNs. -/

namespace Sys2Proof.Machine.Num

/-! A pattern made of a sign and a finite magnitude, read back. -/

theorem mag32_sign32 (neg : Bool) {m : Nat} (h : m < inf32) : mag32 (sign32 neg m) = unpackMag prec32 m := by
  rw [mag32, (sign32_parts neg (lt_trans h (by decide))).1]

theorem sign32_msb (neg : Bool) {m : Nat} (h : m < inf32) : (sign32 neg m).msb = neg :=
  (sign32_parts neg (lt_trans h (by decide))).2

theorem mag64_sign64 (neg : Bool) {m : Nat} (h : m < inf64) : mag64 (sign64 neg m) = unpackMag prec64 m := by
  rw [mag64, (sign64_parts neg (lt_trans h (by decide))).1]

theorem sign64_msb (neg : Bool) {m : Nat} (h : m < inf64) : (sign64 neg m).msb = neg :=
  (sign64_parts neg (lt_trans h (by decide))).2

@[simp] theorem natAbs_val32 (b : F32) : (val32 b).natAbs = mag32 b := by
  unfold val32
  split_ifs <;> simp

@[simp] theorem natAbs_val64 (b : F64) : (val64 b).natAbs = mag64 b := by
  unfold val64
  split_ifs <;> simp

theorem val32_eq_zero {b : F32} : val32 b = 0 ↔ mag32 b = 0 := by rw [← natAbs_val32, Int.natAbs_eq_zero]

theorem val64_eq_zero {b : F64} : val64 b = 0 ↔ mag64 b = 0 := by rw [← natAbs_val64, Int.natAbs_eq_zero]

/-- A scaled integer from its sign bit and its magnitude. -/
theorem val64_eq_mul {b : F64} {x : Int} {k : Nat} (hs : b.msb = decide (x < 0)) (hm : mag64 b = x.natAbs * 2 ^ k) :
    val64 b = x * 2 ^ k := by
  unfold val64
  rw [hs, hm]
  simp only [decide_eq_true_eq]
  push_cast
  split_ifs with h
  · rw [abs_of_neg h, neg_mul, neg_neg]
  · rw [abs_of_nonneg (by omega)]

/-- A pattern is its sign and the rest. -/
theorem sign32_bits32 (b : F32) : sign32 b.msb (bits32 b) = b := by
  apply BitVec.eq_of_toNat_eq
  have := b.isLt
  simp only [sign32, bits32, BitVec.toNat_ofNat, BitVec.msb_eq_decide, decide_eq_true_eq]
  split_ifs <;> omega

/-- A finite pattern is its sign and its packed magnitude. -/
theorem sign32_packMag_mag32 {b : F32} (h : isFinite32 b = true) :
    sign32 b.msb (packMag prec32 inf32 0 (mag32 b)) = b := by
  rw [mag32, packMag_unpackMag (by decide) (of_decide_eq_true h), sign32_bits32]

/-- A zero is known by its sign. -/
theorem eq_sign32_of_mag32 {b : F32} (h : isFinite32 b = true) (hm : mag32 b = 0) : b = sign32 b.msb 0 := by
  have := sign32_packMag_mag32 h
  rwa [hm, packMag_zero (by decide), eq_comm] at this

/-! Classes of patterns -/

theorem isNan32_of_finite {b : F32} (h : isFinite32 b = true) : isNan32 b = false := by
  simp only [isFinite32, isNan32, decide_eq_true_eq, decide_eq_false_iff_not] at *
  omega

theorem isInf32_of_finite {b : F32} (h : isFinite32 b = true) : isInf32 b = false := by
  simp only [isFinite32, isInf32, decide_eq_true_eq, beq_eq_false_iff_ne] at *
  omega

theorem finite32_of_nan {b : F32} (h : isNan32 b = true) : isFinite32 b = false := by
  by_contra hf
  rw [isNan32_of_finite (by simpa using hf)] at h
  cases h

/-- What is packed is no NaN. -/
theorem isNan32_sign32 (neg : Bool) {m : Nat} (h : m ≤ inf32) : isNan32 (sign32 neg m) = false := by
  rw [isNan32, (sign32_parts neg (lt_of_le_of_lt h (by decide))).1]
  simpa using h

theorem isNan32_quiet32 (free : F32) : isNan32 (quiet32 free) = true := by
  have hor : bits32 (quiet32 free) = bits32 free ||| 0x7FC00000 := by
    rw [bits32, quiet32, BitVec.toNat_or, Nat.or_mod_two_pow]
    rfl
  rw [isNan32, hor]
  exact decide_eq_true (lt_of_lt_of_le (by decide) Nat.right_le_or)

theorem val32_sign32_zero (neg : Bool) : val32 (sign32 neg 0) = 0 := by cases neg <;> decide

theorem isNan64_of_finite {v : F64} (h : isFinite64 v = true) : isNan64 v = false := by
  simp only [isFinite64, isNan64, decide_eq_true_eq, decide_eq_false_iff_not] at *
  omega

theorem isInf64_of_finite {v : F64} (h : isFinite64 v = true) : isInf64 v = false := by
  simp only [isFinite64, isInf64, decide_eq_true_eq, beq_eq_false_iff_ne] at *
  omega

end Sys2Proof.Machine.Num
end

section
/-! O49: 32-bit addition, the clamp and the narrowing (R10, R124, R125, R127). -/

namespace Sys2Proof.Machine

/-- The wrapped sum differs from the exact one by a multiple of `2^32`, 0 just where the test is clear (R10, R125). -/
theorem add32_toInt (a b : I32) : ∃ c : Int, (add32 a b).toInt = a.toInt + b.toInt + c * 2 ^ 32 ∧
    (add32Overflows a b = false ↔ c = 0) := by
  have hs := (add32 a b).two_mul_toInt_lt
  have hs' := (add32 a b).le_two_mul_toInt
  obtain ⟨c, hc⟩ : ∃ c : Int, (add32 a b).toInt = a.toInt + b.toInt + c * 2 ^ 32 := by
    refine ⟨((add32 a b).toInt - (a.toInt + b.toInt)) / 2 ^ 32, ?_⟩
    have : (add32 a b).toInt = (a.toInt + b.toInt).bmod (2 ^ 32) := BitVec.toInt_add a b
    rw [Int.bmod_def] at this
    omega
  refine ⟨c, hc, ?_⟩
  simp only [add32Overflows, Bool.or_eq_false_iff, decide_eq_false_iff_not]
  omega

/-- The clamp's result is an int16 (R10). -/
theorem Num.clamp16_range (v : Int) : -32768 ≤ Num.clamp16 v ∧ Num.clamp16 v ≤ 32767 := by
  unfold Num.clamp16
  split_ifs <;> omega

/-- A clamped value is kept in 16 bits or more. -/
theorem Num.toInt_ofInt_clamp16 {w : Nat} (hw : 16 ≤ w) (v : Int) :
    (BitVec.ofInt w (Num.clamp16 v)).toInt = Num.clamp16 v := by
  obtain ⟨hlo, hhi⟩ := Num.clamp16_range v
  have hpow : 2 ^ 16 ≤ 2 ^ w := Nat.pow_le_pow_right (by omega) hw
  rw [BitVec.toInt_ofInt]
  apply Int.bmod_eq_of_le <;> omega

theorem narrow_ofInt (v : Int) : narrow (BitVec.ofInt 32 v) = BitVec.ofInt 16 v := by
  apply BitVec.eq_of_toNat_eq
  simp only [narrow, BitVec.truncate_eq_setWidth, BitVec.toNat_setWidth, BitVec.toNat_ofInt]
  omega

/-- Settles O49: the clauses on the sum, the clamp, and the clamped accumulator narrowed or not. -/
theorem additionWrapsAndClampSaturates : Obligations.AdditionWrapsAndClampSaturates := by
  refine ⟨fun a b => ?_, fun v => ?_, fun r => ?_⟩
  · obtain ⟨c, hc, hov⟩ := add32_toInt a b
    rw [hov, hc]
    omega
  · unfold Num.clamp16
    split_ifs <;> omega
  · rw [clampRaw, narrow_ofInt]
    exact ⟨Num.toInt_ofInt_clamp16 (by decide) _, Num.toInt_ofInt_clamp16 (by decide) _⟩

end Sys2Proof.Machine
end

section
/-! O50: the float conversion of an integer (R12, R212). -/

namespace Sys2Proof.Machine.Num

/-! The suggested conversion (R212) -/

/-- The magnitude of an int32. -/
theorem natAbs_toInt_le (x : I32) : x.toInt.natAbs ≤ 2 ^ 31 := by
  have := x.toInt_lt
  have := x.le_toInt
  omega

/-- No int32 overflows the conversion: its scaled magnitude is at most `2^165`. -/
theorem packMag_int32_lt (x : I32) : packMag prec32 inf32 0 (x.toInt.natAbs * 2 ^ 134) < inf32 := by
  have := natAbs_toInt_le x
  exact packMag_lt (m := 166) (by decide) (by omega) (by decide) (by decide)

theorem ieeeI2f_finite (x : I32) : isFinite32 (ieeeI2f x) = true := sign32_finite _ (packMag_int32_lt x)

theorem ieeeI2f_msb (x : I32) : (ieeeI2f x).msb = x.msb := sign32_msb _ (packMag_int32_lt x)

/-- The conversion packs the scaled magnitude. -/
theorem mag32_ieeeI2f (x : I32) :
    mag32 (ieeeI2f x) = unpackMag prec32 (packMag prec32 inf32 0 (x.toInt.natAbs * 2 ^ 134)) :=
  mag32_sign32 _ (packMag_int32_lt x)

theorem mag32_ieeeI2f_eq_zero {x : I32} : mag32 (ieeeI2f x) = 0 ↔ x = 0 := by
  rw [mag32_ieeeI2f, unpackMag_packMag_eq_zero (by decide) (packMag_int32_lt x)]
  simp [← BitVec.toInt_inj]

theorem val32_ieeeI2f (x : I32) : val32 (ieeeI2f x) = x.toInt.sign * mag32 (ieeeI2f x) := by
  rw [val32, ieeeI2f_msb, BitVec.msb_eq_toInt]
  rcases lt_trichotomy x.toInt 0 with h | h | h
  · simp [h, Int.sign_eq_neg_one_of_neg h]
  · have hx : x = 0 := BitVec.eq_of_toInt_eq h
    simp [h, mag32_ieeeI2f_eq_zero.2 hx]
  · simp [h.le, Int.sign_eq_one_of_pos h]

/-- Up to `2^24` in magnitude nothing is rounded. -/
theorem val32_ieeeI2f_exact {x : I32} (h : x.toInt.natAbs ≤ 2 ^ 24) : val32 (ieeeI2f x) = x.toInt * 2 ^ 134 := by
  rw [val32_ieeeI2f, mag32_ieeeI2f, unpackMag_packMag_exact (p := prec32) (by decide) h (packMag_int32_lt x)]
  push_cast
  rw [← mul_assoc, ← Int.natCast_natAbs, Int.sign_mul_natAbs]

/-- From `2^23` on the magnitude is rounded to 24 bits. -/
theorem mag32_ieeeI2f_rounded {x : I32} {k : Nat} (hlo : 2 ^ (23 + k) ≤ x.toInt.natAbs)
    (hhi : x.toInt.natAbs < 2 ^ (24 + k)) : mag32 (ieeeI2f x) = rne x.toInt.natAbs k * 2 ^ k * 2 ^ 134 := by
  have hne : x.toInt.natAbs ≠ 0 := (lt_of_lt_of_le (Nat.two_pow_pos _) hlo).ne'
  have hlog : x.toInt.natAbs.log2 = 23 + k :=
    (Nat.log2_eq_iff hne).2 ⟨hlo, by rwa [show 23 + k + 1 = 24 + k by omega]⟩
  have hsh : (x.toInt.natAbs * 2 ^ 134).log2 + 1 - prec32 = k + 134 := by
    rw [log2_mul_two_pow hne, hlog, prec32]
    omega
  rw [mag32_ieeeI2f, unpackMag_packMag (by decide) (packMag_int32_lt x), hsh, rne_mul_two_pow, pow_add, mul_assoc]

/-! Every record -/

/-- The properties of `i2f` that R12 names, read off the test. -/
theorem i2fOk_iff {x : I32} {r : F32} : i2fOk x r = true ↔
    isFinite32 r = true ∧ r.msb = x.msb ∧ (val32 r = 0 ↔ x = 0) ∧
    (x.toInt.natAbs ≤ 2 ^ 24 → val32 r = x.toInt * 2 ^ 134) := by
  have hb : (mag32 r == 0) = (x == 0) ↔ (val32 r = 0 ↔ x = 0) := by
    rw [Bool.eq_iff_iff, val32_eq_zero]
    simp
  simp only [i2fOk, Bool.and_eq_true, beq_iff_eq, Bool.or_eq_true, decide_eq_true_eq, hb, and_assoc, ← not_le,
    ← imp_iff_not_or]

theorem i2fOk_ieeeI2f (x : I32) : i2fOk x (ieeeI2f x) = true :=
  i2fOk_iff.2 ⟨ieeeI2f_finite x, ieeeI2f_msb x, by rw [val32_eq_zero, mag32_ieeeI2f_eq_zero], val32_ieeeI2f_exact⟩

theorem i2fOk_i2f (n : Numerics) (x : I32) : i2fOk x (i2f n x) = true := by
  cases n with
  | ieee => exact i2fOk_ieeeI2f x
  | other k => exact within_ok (i2fOk x) _ _ (i2fOk_ieeeI2f x)

/-- A conversion of 0 is the positive zero. -/
theorem i2f_zero (n : Numerics) : i2f n 0 = 0 := by
  obtain ⟨hf, hs, hz, _⟩ := i2fOk_iff.1 (i2fOk_i2f n 0)
  rw [eq_sign32_of_mag32 hf (val32_eq_zero.1 (hz.2 rfl)), hs]
  rfl

/-- Settles O50: the properties every record has, and the rounding of the suggested one. -/
theorem floatConversionIsExact : Obligations.FloatConversionIsExact := by
  constructor
  · exact fun n x => ⟨i2f_zero n, i2fOk_iff.1 (i2fOk_i2f n x)⟩
  · intro x k hlo hhi
    refine ⟨rne x.toInt.natAbs k, ?_, rne_nearest x.toInt.natAbs k⟩
    rw [← mag32_ieeeI2f_rounded hlo hhi]
    exact val32_ieeeI2f x

end Sys2Proof.Machine.Num
end

section
/-! O51: the gain of a CD sample (R186) and the integer conversion (R188). -/

namespace Sys2Proof.Machine.Num

/-! `mulvol` -/

/-- 1.0 in units of `2^-1074`. -/
theorem mag64_one64 : mag64 one64 = 2 ^ 1074 := by
  have hbits : bits64 one64 = 1022 * 2 ^ (prec64 - 1) + 2 ^ 52 := by decide
  rw [mag64, hbits, unpackMag_add (by decide) (by decide) (.inr (by decide)), ← pow_add]

/-- The product with a finite gain packs the product of the magnitudes. -/
theorem ieeeMulvol_of_finite (x : Int) {g : F64} (hg : isFinite64 g = true) :
    ieeeMulvol x g = sign64 (decide (x < 0) ^^ g.msb) (packMag prec64 inf64 0 (x.natAbs * mag64 g)) := by
  simp [ieeeMulvol, isNan64_of_finite hg, isInf64_of_finite hg]

/-- The properties of `mulvol` that R12 names, read off the test. -/
theorem mulvolOk_iff {x : Int} {g r : F64} : mulvolOk x g r = true ↔
    isFinite64 r = true ∧ (g = one64 → val64 r = x * 2 ^ 1074) ∧ (x = 0 ∨ mag64 g = 0 → val64 r = 0) := by
  have hz : ((x != 0 && mag64 g != 0) || mag64 r == 0) = true ↔ (x = 0 ∨ mag64 g = 0 → val64 r = 0) := by
    rw [val64_eq_zero]
    simp only [Bool.or_eq_true, Bool.and_eq_true, bne_iff_ne, beq_iff_eq]
    tauto
  have h1 : (g != one64 || val64 r == x * 2 ^ 1074) = true ↔ (g = one64 → val64 r = x * 2 ^ 1074) := by
    simp only [Bool.or_eq_true, bne_iff_ne, beq_iff_eq]
    tauto
  rw [mulvolOk, Bool.and_eq_true, Bool.and_eq_true, h1, hz, and_assoc]

/-- The suggested product has them where the exact one is below `2^53` in magnitude. -/
theorem mulvolOk_ieeeMulvol {x : Int} {g : F64} (hg : isFinite64 g = true) (hb : x.natAbs * mag64 g < 2 ^ 1127) :
    mulvolOk x g (ieeeMulvol x g) = true := by
  have hlt : packMag prec64 inf64 0 (x.natAbs * mag64 g) < inf64 := packMag_lt (by decide) hb (by decide) (by decide)
  rw [ieeeMulvol_of_finite x hg, mulvolOk_iff]
  refine ⟨sign64_finite _ hlt, ?_, fun h => ?_⟩
  · rintro rfl
    rw [mag64_one64] at hb hlt ⊢
    have hx : x.natAbs ≤ 2 ^ prec64 := by
      rw [show 1127 = prec64 + 1074 from rfl, pow_add] at hb
      exact (Nat.lt_of_mul_lt_mul_right hb).le
    apply val64_eq_mul
    · rw [sign64_msb _ hlt, show one64.msb = false by decide, Bool.xor_false]
    · rw [mag64_sign64 _ hlt, unpackMag_packMag_exact (by decide) hx hlt]
  · have h0 : x.natAbs * mag64 g = 0 := by simpa using h
    rw [val64_eq_zero, mag64_sign64 _ hlt, h0, packMag_zero (by decide)]
    rfl

/-- Every record's product has them. -/
theorem mulvolOk_mulvol (n : Numerics) {x : Int} {g : F64} (hg : isFinite64 g = true)
    (hb : x.natAbs * mag64 g < 2 ^ 1127) : mulvolOk x g (mulvol n x g) = true := by
  cases n with
  | ieee => exact mulvolOk_ieeeMulvol hg hb
  | other k =>
    rw [mulvol, if_pos hg]
    exact within_ok (mulvolOk x g) _ _ (mulvolOk_ieeeMulvol hg hb)

/-- A table entry in `[0, 1]` is finite and at most 1 (R211 (c)). -/
theorem gain_le_one {g : F64} (h : g.toNat ≤ one64.toNat) : isFinite64 g = true ∧ mag64 g ≤ 2 ^ 1074 := by
  have hb : bits64 g ≤ (1022 + 1) * 2 ^ (prec64 - 1) := le_trans (Nat.mod_le _ _) h
  refine ⟨decide_eq_true (lt_of_le_of_lt hb (by decide)), ?_⟩
  have hm := unpackMag_le (by decide) hb
  rwa [show prec64 - 1 + 1022 = 1074 from rfl] at hm

/-- No routed sample times a table entry overflows. -/
theorem mulvolOk_of_routed (n : Numerics) {x : Int} {g : F64} (hlo : -65536 ≤ x) (hhi : x ≤ 65534)
    (hg : g.toNat ≤ one64.toNat) : mulvolOk x g (mulvol n x g) = true := by
  obtain ⟨hf, hm⟩ := gain_le_one hg
  refine mulvolOk_mulvol n hf ?_
  calc x.natAbs * mag64 g ≤ 2 ^ 16 * 2 ^ 1074 := Nat.mul_le_mul (by omega) hm
    _ < 2 ^ 1127 := by rw [← pow_add]; exact pow_lt_pow_right₀ one_lt_two (by decide)

/-! `f2i` -/

/-- Truncation of a finite value (R188). -/
theorem trunc64_eq (v : F64) : trunc64 v = (val64 v).tdiv (2 ^ 1074) := by
  have hd : ((mag64 v / 2 ^ 1074 : Nat) : Int) = (mag64 v : Int).tdiv (2 ^ 1074) := by
    rw [Int.ofNat_tdiv, Nat.cast_pow, Nat.cast_ofNat]
  unfold trunc64 val64
  dsimp only
  rw [hd]
  split_ifs
  · exact (Int.neg_tdiv ..).symm
  · rfl

/-- The identity on the integers of the int16 range, read off the test. -/
theorem f2iOk_iff {v : F64} {r : I16} : f2iOk v r = true ↔
    (val64 v = trunc64 v * 2 ^ 1074 → clamp16 (trunc64 v) = trunc64 v → r.toInt = trunc64 v) := by
  simp only [f2iOk, Bool.or_eq_true, bne_iff_ne, beq_iff_eq]
  tauto

theorem f2iOk_ieeeF2i (v : F64) : f2iOk v (ieeeF2i v) = true :=
  f2iOk_iff.2 fun _ h => by rw [ieeeF2i, toInt_ofInt_clamp16 (by decide), h]

/-- A finite value has an integer, in every record. -/
theorem f2i_of_finite (n : Numerics) {v : F64} (h : isFinite64 v = true) :
    ∃ r, f2i n v = some r ∧ f2iOk v r = true := by
  cases n with
  | ieee => exact ⟨_, if_pos h, f2iOk_ieeeF2i v⟩
  | other k => exact ⟨_, if_pos h, within_ok (f2iOk v) _ _ (f2iOk_ieeeF2i v)⟩

theorem clamp16_of_int16 (y : I16) : clamp16 y.toInt = y.toInt := by
  have := y.toInt_lt
  have := y.le_toInt
  unfold clamp16
  split_ifs <;> omega

/-- An int16 integer comes back. -/
theorem f2i_of_int16 (n : Numerics) {v : F64} {y : I16} (h : isFinite64 v = true)
    (hv : val64 v = y.toInt * 2 ^ 1074) : f2i n v = some y := by
  have ht : trunc64 v = y.toInt := by
    rw [trunc64_eq, hv]
    exact Int.mul_tdiv_cancel _ (pow_ne_zero _ two_ne_zero)
  obtain ⟨r, hr, hok⟩ := f2i_of_finite n h
  rw [f2iOk_iff, ht] at hok
  rw [hr, BitVec.eq_of_toInt_eq (hok hv (clamp16_of_int16 y))]

/-- Settles O51: unity and zero gain, the integers of int16 back, and the suggested conversion. -/
theorem unityAndZeroGain : Obligations.UnityAndZeroGain := by
  refine ⟨fun n x hlo hhi => ?_, fun n v => ⟨fun h => ?_, fun y => f2i_of_int16 n⟩, ?_⟩
  · obtain ⟨hfin, hone, _⟩ := mulvolOk_iff.1 (mulvolOk_of_routed n hlo hhi (g := one64) le_rfl)
    obtain ⟨_, _, hzero⟩ := mulvolOk_iff.1 (mulvolOk_of_routed n hlo hhi (g := 0) (by decide))
    refine ⟨hfin, hone rfl, hzero (.inr (by decide)), fun g hg => ?_⟩
    have hb : (0 : Int).natAbs * mag64 g < 2 ^ 1127 := by
      rw [Int.natAbs_zero, Nat.zero_mul]
      exact pow_pos two_pos _
    obtain ⟨_, _, hz⟩ := mulvolOk_iff.1 (mulvolOk_mulvol n hg hb)
    exact hz (.inl rfl)
  · simp [f2i, h]
  · rintro x v h rfl
    rw [← trunc64_eq]
    exact if_pos h

end Sys2Proof.Machine.Num
end

section
/-! O52: the float-mode conversion and accumulation (R188), and where results are finite (R213). -/

namespace Sys2Proof.Machine.Num

/-! `f2f` -/

theorem ieeeF2f_of_finite {v : F64} (h : isFinite64 v = true) :
    ieeeF2f v = sign32 v.msb (packMag prec32 inf32 940 (mag64 v)) := by
  simp [ieeeF2f, isNan64_of_finite h, isInf64_of_finite h]

theorem f2fOk_iff {v : F64} {r : F32} : f2fOk v r = true ↔ isFinite32 r = true ∧ (val64 v = 0 → val32 r = 0) := by
  rw [val64_eq_zero, val32_eq_zero]
  simp only [f2fOk, Bool.and_eq_true, Bool.or_eq_true, bne_iff_ne, beq_iff_eq]
  tauto

/-- The suggested conversion of a zero is the zero of its sign. -/
theorem ieeeF2f_of_zero {v : F64} (h : isFinite64 v = true) (h0 : val64 v = 0) : ieeeF2f v = sign32 v.msb 0 := by
  rw [ieeeF2f_of_finite h, val64_eq_zero.1 h0, packMag_zero (by decide)]

/-- Where it does not overflow, the suggested conversion has the properties R12 and R213 name. -/
theorem f2fOk_ieeeF2f {v : F64} (h : isFinite64 v = true) (hr : isFinite32 (ieeeF2f v) = true) :
    f2fOk v (ieeeF2f v) = true :=
  f2fOk_iff.2 ⟨hr, fun h0 => by rw [ieeeF2f_of_zero h h0, val32_sign32_zero]⟩

/-- Every record but the suggested one has them at every finite value (log entry 25). -/
theorem f2fOk_f2f_other (k : Nat) {v : F64} (h : isFinite64 v = true) : f2fOk v (f2f (.other k) v) = true := by
  rw [f2f, if_pos h]
  refine within_ok (f2fOk v) _ _ (f2fOk_iff.2 ⟨saturate32_finite ?_, fun h0 => ?_⟩)
  · rw [ieeeF2f_of_finite h]
    exact isNan32_sign32 _ (packMag_le ..)
  · rw [ieeeF2f_of_zero h h0, saturate32_of_finite (sign32_finite _ (by decide)), val32_sign32_zero]

/-- No value up to `2^16` overflows. -/
theorem ieeeF2f_finite {v : F64} (h : isFinite64 v = true) (hb : mag64 v ≤ 2 ^ 16 * 2 ^ 1074) :
    isFinite32 (ieeeF2f v) = true := by
  rw [ieeeF2f_of_finite h]
  have hlt : mag64 v < 2 ^ 1091 := by
    refine lt_of_le_of_lt hb ?_
    rw [← pow_add]
    exact pow_lt_pow_right₀ one_lt_two (by decide)
  exact sign32_finite _ (packMag_lt (by decide) hlt (by decide) (by decide))

/-- Every record's conversion of a value up to `2^16` has the properties. -/
theorem f2fOk_f2f (n : Numerics) {v : F64} (h : isFinite64 v = true) (hb : mag64 v ≤ 2 ^ 16 * 2 ^ 1074) :
    f2fOk v (f2f n v) = true := by
  cases n with
  | ieee => exact f2fOk_ieeeF2f h (ieeeF2f_finite h hb)
  | other k => exact f2fOk_f2f_other k h

theorem isNan32_f2f (n : Numerics) {v : F64} (h : isNan64 v = true) : isNan32 (f2f n v) = true := by
  have hq : isNan32 (ieeeF2f v) = true := by
    rw [ieeeF2f, if_pos h]
    exact isNan32_quiet32 _
  cases n with
  | ieee => exact hq
  | other k =>
    rw [f2f, if_neg]
    · exact hq
    · intro hf
      rw [isNan64_of_finite hf] at h
      cases h

/-! `addf` -/

/-- The sum of finite values packs the exact sum. -/
theorem ieeeAddf_of_finite {a b : F32} (ha : isFinite32 a = true) (hb : isFinite32 b = true) :
    ieeeAddf a b = if val32 a + val32 b = 0 then sign32 (a.msb && b.msb) 0
      else sign32 (decide (val32 a + val32 b < 0)) (packMag prec32 inf32 0 (val32 a + val32 b).natAbs) := by
  simp [ieeeAddf, isNan32_of_finite ha, isNan32_of_finite hb, isInf32_of_finite ha, isInf32_of_finite hb]

theorem addfOk_iff {a b r : F32} : addfOk a b r = true ↔
    isFinite32 r = true ∧ (val32 a = 0 → val32 r = val32 b) := by
  rw [val32_eq_zero]
  simp only [addfOk, Bool.and_eq_true, Bool.or_eq_true, bne_iff_ne, beq_iff_eq]
  tauto

theorem ieeeAddf_zeros {a b : F32} (ha : isFinite32 a = true) (hb : isFinite32 b = true) (ha0 : val32 a = 0)
    (hb0 : val32 b = 0) : ieeeAddf a b = sign32 (a.msb && b.msb) 0 := by
  rw [ieeeAddf_of_finite ha hb, ha0, hb0, if_pos (add_zero 0)]

/-- The sign bit of a value other than 0. -/
theorem msb_eq_of_val32_ne_zero {b : F32} (h : val32 b ≠ 0) : b.msb = decide (val32 b < 0) := by
  have hm : mag32 b ≠ 0 := fun h0 => h (val32_eq_zero.2 h0)
  unfold val32
  cases b.msb
  · simp
  · simp
    omega

/-- Zero and a value other than zero make that value, bit for bit. -/
theorem ieeeAddf_zero_left {a b : F32} (ha : isFinite32 a = true) (hb : isFinite32 b = true) (ha0 : val32 a = 0)
    (hb0 : val32 b ≠ 0) : ieeeAddf a b = b := by
  rw [ieeeAddf_of_finite ha hb, ha0, zero_add, if_neg hb0, ← msb_eq_of_val32_ne_zero hb0, natAbs_val32,
    sign32_packMag_mag32 hb]

/-- The suggested sum of a zero and a finite value has the properties R12 and R213 name. -/
theorem addfOk_ieeeAddf_of_zero {a b : F32} (ha : isFinite32 a = true) (hb : isFinite32 b = true) (ha0 : val32 a = 0) :
    addfOk a b (ieeeAddf a b) = true := by
  rw [addfOk_iff]
  by_cases hb0 : val32 b = 0
  · rw [ieeeAddf_zeros ha hb ha0 hb0, val32_sign32_zero, hb0]
    exact ⟨sign32_finite _ (by decide), fun _ => rfl⟩
  · rw [ieeeAddf_zero_left ha hb ha0 hb0]
    exact ⟨hb, fun _ => rfl⟩

theorem isNan32_ieeeAddf_of_finite {a b : F32} (ha : isFinite32 a = true) (hb : isFinite32 b = true) :
    isNan32 (ieeeAddf a b) = false := by
  rw [ieeeAddf_of_finite ha hb]
  split_ifs
  · exact isNan32_sign32 _ (by decide)
  · exact isNan32_sign32 _ (packMag_le ..)

/-- Every record but the suggested one has the properties at all finite values (log entry 25). -/
theorem addfOk_addf_other (k : Nat) {a b : F32} (ha : isFinite32 a = true) (hb : isFinite32 b = true) :
    addfOk a b (addf (.other k) a b) = true := by
  rw [addf, if_pos (by simp [ha, hb])]
  refine within_ok (addfOk a b) _ _
    (addfOk_iff.2 ⟨saturate32_finite (isNan32_ieeeAddf_of_finite ha hb), fun ha0 => ?_⟩)
  obtain ⟨hfin, hval⟩ := addfOk_iff.1 (addfOk_ieeeAddf_of_zero ha hb ha0)
  rw [saturate32_of_finite hfin, hval ha0]

theorem addfOk_addf_of_zero (n : Numerics) {a b : F32} (ha : isFinite32 a = true) (hb : isFinite32 b = true)
    (ha0 : val32 a = 0) : addfOk a b (addf n a b) = true := by
  cases n with
  | ieee => exact addfOk_ieeeAddf_of_zero ha hb ha0
  | other k => exact addfOk_addf_other k ha hb

/-- No sum below `2^127` overflows. -/
theorem ieeeAddf_finite {a b : F32} (ha : isFinite32 a = true) (hb : isFinite32 b = true)
    (hs : (val32 a + val32 b).natAbs < 2 ^ 127 * 2 ^ 149) : isFinite32 (ieeeAddf a b) = true := by
  rw [ieeeAddf_of_finite ha hb]
  split_ifs
  · exact sign32_finite _ (by decide)
  · rw [← pow_add] at hs
    exact sign32_finite _ (packMag_lt (by decide) hs (by decide) (by decide))

theorem addf_finite (n : Numerics) {a b : F32} (ha : isFinite32 a = true) (hb : isFinite32 b = true)
    (hs : (val32 a + val32 b).natAbs < 2 ^ 127 * 2 ^ 149) : isFinite32 (addf n a b) = true := by
  cases n with
  | ieee => exact ieeeAddf_finite ha hb hs
  | other k => exact (addfOk_iff.1 (addfOk_addf_other k ha hb)).1

theorem isNan32_addf (n : Numerics) {a b : F32} (h : isNan32 a = true ∨ isNan32 b = true) :
    isNan32 (addf n a b) = true := by
  have hq : isNan32 (ieeeAddf a b) = true := by
    rw [ieeeAddf, if_pos]
    · exact isNan32_quiet32 _
    · obtain h | h := h <;> simp [h]
  cases n with
  | ieee => exact hq
  | other k =>
    rw [addf, if_neg]
    · exact hq
    · obtain h | h := h <;> simp [finite32_of_nan h]

/-- `+0.0` and a finite value other than `-0.0` make that value. -/
theorem ieeeAddf_posZero {b : F32} (hb : isFinite32 b = true) (hne : b ≠ 0x80000000) : ieeeAddf 0 b = b := by
  by_cases hb0 : val32 b = 0
  · have hbz := eq_sign32_of_mag32 hb (val32_eq_zero.1 hb0)
    have hs : b.msb = false := by
      by_contra hs
      rw [Bool.not_eq_false] at hs
      rw [hs] at hbz
      exact hne hbz
    rw [ieeeAddf_zeros (by decide) hb (by decide) hb0, hbz, hs]
    rfl
  · exact ieeeAddf_zero_left (by decide) hb (by decide) hb0

/-- Settles O52: silence, NaNs, and the bounds within which results are finite. -/
theorem addingToSilenceIsExact : Obligations.AddingToSilenceIsExact := by
  refine ⟨fun n a b ha ha0 hb => ?_, fun n v hv hv0 => ?_, fun n a b v => ⟨isNan32_addf n, isNan32_f2f n⟩,
    fun n x g hlo hhi hg => ?_, fun n v hv hb => ?_, fun n a b => addf_finite n,
    fun k a b v => ⟨fun ha hb => ?_, fun hv => ?_⟩, fun b => ieeeAddf_posZero, ?_, ?_⟩
  · obtain ⟨hfin, hval⟩ := addfOk_iff.1 (addfOk_addf_of_zero n ha hb ha0)
    exact ⟨hfin, hval ha0⟩
  · obtain ⟨hfin, hzero⟩ := f2fOk_iff.1 (f2fOk_f2f n hv (by rw [val64_eq_zero.1 hv0]; exact Nat.zero_le _))
    exact ⟨hfin, hzero hv0⟩
  · exact (mulvolOk_iff.1 (mulvolOk_of_routed n hlo hhi hg)).1
  · exact (f2fOk_iff.1 (f2fOk_f2f n hv (natAbs_val64 v ▸ hb))).1
  · exact (addfOk_iff.1 (addfOk_addf_other k ha hb)).1
  · exact (f2fOk_iff.1 (f2fOk_f2f_other k hv)).1
  · exact ieeeAddf_zeros (by decide) (by decide) (by decide) (by decide)
  · exact ieeeF2f_of_zero (by decide) (by decide)

end Sys2Proof.Machine.Num
end

section
/-! O56, O57: every turn of the schedule keeps the invariant and none faults. Each operation is shown once to lead to a
state of `Inv`; the schedule is then walked through once, for both statements. -/

namespace Sys2Proof.Machine

/-! ## What the invariant says in the phases of the main path and of the worker -/

variable {s : State}

theorem freeing_of_idle (hm : s.main = .idle) : freeing s = false := by simp [freeing, hm]

theorem freeing_of_awaitExit {k : AfterStop} {w : Word} (hm : s.main = .awaitExit k w) :
    freeing s = decide (k = .resetFailed) := by
  cases k <;> simp [freeing, hm]

theorem coupled_idle (hm : s.main = .idle) : coupled s ↔ s.startEvt = false ∧
    ((s.cdEnable = false ∧ s.wState = .absent) ∨
     (s.cdEnable = true ∧ s.run = true ∧ s.life = .active ∧ (s.wState = .waiting ∨ s.wState = .mixing))) := by
  simp [coupled, hm]

theorem coupled_awaitReady {w : Word} (hm : s.main = .awaitReady w) : coupled s ↔
    s.cdEnable = false ∧ s.run = true ∧ s.life = .active ∧ s.sig = false ∧
    ((s.wState = .starting ∧ s.startEvt = false) ∨ (s.wState = .waiting ∧ s.startEvt = true)) := by
  simp [coupled, hm]

theorem coupled_awaitExit {k : AfterStop} {w : Word} (hm : s.main = .awaitExit k w) : coupled s ↔
    s.cdEnable = true ∧ s.run = false ∧ s.life = .active ∧ s.startEvt = false ∧
    ((s.sig = true ∧ (s.wState = .waiting ∨ s.wState = .mixing)) ∨ (s.sig = false ∧ s.wState = .exited)) := by
  simp [coupled, hm]

/-- An idle main path and no worker. -/
theorem coupled_absent (hm : s.main = .idle) (he : s.startEvt = false) (hc : s.cdEnable = false)
    (hw : s.wState = .absent) : coupled s :=
  (coupled_idle hm).2 ⟨he, .inl ⟨hc, hw⟩⟩

/-- The main path becomes idle by a response and was idle before. -/
theorem respond_of_idle (hm : s.main = .idle) (w : Word) (st : Status) :
    s.respond w st = { s with status := st, hist := .response w st :: s.hist } := by
  unfold State.respond
  rw [← hm]

/-- R151 in the states where no failed RESET waits. -/
theorem Inv.ten_get (h : Inv s) (hf : freeing s = false) (st : Stream) :
    s.ten.get st = (decide (s.life = .active) && !false) := hf ▸ h.timers st

/-- A worker whose main path is idle belongs to a live context (I-c of R47). -/
theorem Inv.active_of_cdEnable (h : Inv s) (hm : s.main = .idle) (hc : s.cdEnable = true) :
    s.run = true ∧ s.life = .active ∧ (s.wState = .waiting ∨ s.wState = .mixing) := by
  have hw := (coupled_idle hm).1 h.worker
  simpa [hc] using hw.2

theorem Inv.absent_of_not_cdEnable (h : Inv s) (hm : s.main = .idle) (hc : s.cdEnable = false) :
    s.wState = .absent := by
  have hw := (coupled_idle hm).1 h.worker
  simpa [hc] using hw.2

theorem Inv.startEvt_of_idle (h : Inv s) (hm : s.main = .idle) : s.startEvt = false :=
  ((coupled_idle hm).1 h.worker).1

/-- Outside a live context there is no worker (I-c of R47). -/
theorem Inv.not_cdEnable (h : Inv s) (hm : s.main = .idle) (hl : s.life ≠ .active) : s.cdEnable = false := by
  by_contra hc
  exact hl (h.active_of_cdEnable hm (by simpa using hc)).2.1

/-- A pass is in flight only in a live context. -/
theorem Inv.active_of_mixing (h : Inv s) (hw : s.wState = .mixing) : s.life = .active := by
  have hc := h.worker
  unfold coupled at hc
  split at hc <;> simp_all

theorem Inv.pos_bufLen (h : Inv s) (st : Stream) : 0 < s.cfg.bufLen.get st := Nat.zero_lt_of_lt (h.pos st)

theorem Inv.cdN_pos (h : Inv s) : 1 ≤ s.cfg.cdN := by
  have hc := h.cfg
  simp only [Params.wf, Bool.and_eq_true, decide_eq_true_eq] at hc
  tauto

/-! ## The worker's side of the handshake (R180 to R182) -/

/-- W.READY. -/
theorem coupled_ready (h : coupled s) (hw : s.wState = .starting) :
    coupled { s.setStart with wState := .waiting } := by
  unfold coupled at h ⊢
  split at h <;> simp_all

/-- W.WAKE with `RUN` set: a pass begins. -/
theorem coupled_wake (h : coupled s) (hw : s.wState = .waiting) (hs : s.sig = true) (hr : s.run = true) :
    coupled { s.clearSig with wState := .mixing } := by
  unfold coupled at h ⊢
  split at h <;> simp_all

/-- W.WAKE with `RUN` clear: the worker exits. -/
theorem coupled_leave (h : coupled s) (hw : s.wState = .waiting) (hs : s.sig = true) (hr : s.run = false) :
    coupled { s.clearSig with wState := .exited } := by
  unfold coupled at h ⊢
  split at h <;> simp_all

/-- MIX.deliver: the pass is over. -/
theorem coupled_delivered (h : coupled s) (hw : s.wState = .mixing) : coupled { s with wState := .waiting } := by
  unfold coupled at h ⊢
  split at h <;> simp_all

/-! ## Commands that answer at once -/

theorem Inv.respond (h : Inv s) (hm : s.main = .idle) (w : Word) (st : Status) : Inv (s.respond w st) := by
  rw [respond_of_idle hm]
  exact { h with }

/-- INIT (R230), before its response. -/
theorem Inv.init (h : Inv s) (hm : s.main = .idle) (hl : s.life = .uninit) :
    Inv { s with
      mem := (s.mem.freeStreams s.cfg.fmtDefault).putVoltab (volumeTable s.cfg), fmt := s.cfg.fmtDefault,
      handlers := .all [], pos := .all 0, filt := .all Slot.empty, cdVolL := 0xFFFF, cdVolR := 0xFFFF,
      accOvf := false, life := .inited } :=
  have hc : s.cdEnable = false := h.not_cdEnable hm (by simp [hl])
  { h with
    mem := putVoltab_keeps_wf _ (freeStreams_keeps_wf _ h.mem) (by simp [volumeTable, sized])
    pos := fun st => by simpa using h.pos_bufLen st
    count := by simp
    named := by simp
    table := fun _ => rfl
    timers := fun st => by simpa [hl] using h.timers st
    streams := nofun
    worker := coupled_absent hm (h.startEvt_of_idle hm) hc (h.absent_of_not_cdEnable hm hc)
    formats := ⟨fun st => by simp [Memory.putVoltab, Memory.freeStreams], h.formats.2⟩ }

/-- REGH (R120), before its response. -/
theorem Inv.regh (h : Inv s) (st : Stream) {x : Slot} (hx : x.cb ≠ 0) (hn : (s.handlers.get st).length ≠ 8) :
    Inv { s with handlers := s.handlers.set st (s.handlers.get st ++ [x]) } :=
  { h with
    count := fun st' => by
      have := h.count st
      have := h.count st'
      rw [PerStream.get_set]
      split_ifs <;> simp <;> omega
    named := fun st' y hy => by
      rw [PerStream.get_set] at hy
      split_ifs at hy
      · rcases List.mem_append.1 hy with hy | hy
        · exact h.named st y hy
        · rw [List.mem_singleton.1 hy]
          exact hx
      · exact h.named st' y hy }

/-- TICK (R121): a flush leaves the stream's buffers in the output format with the period's size. -/
theorem Inv.tickBody (h : Inv s) (hm : s.main = .idle) (st : Stream) : Inv (tickBody st s) := by
  have hpos : ∀ p, p < s.cfg.bufLen.get st → ∀ st', (s.pos.set st p).get st' < s.cfg.bufLen.get st' := by
    intro p hp st'
    rw [PerStream.get_set]
    split_ifs with e
    · exact e ▸ hp
    · exact h.pos st'
  obtain ⟨hp, e⟩ | ⟨hp, r, b, v, d, g, a, n, hh, e, hr, hb, hf, -, -, -, hd⟩ := tickBody_cases st s <;> rw [e]
  · have := h.pos st
    exact { h with pos := hpos _ (by omega) }
  · exact { h with
      pos := hpos 0 (h.pos_bufLen st)
      mem := putOut_keeps_wf st b (putRaw_keeps_wf st r h.mem (by simp [sized, hr, streamSize]))
        (by simp [sized, hb, streamSize])
      streams := fun hl hfr st' => by
        have hs := h.streams hl hfr st'
        simp only [Memory.putOut_raw, Memory.putRaw_raw, Memory.putOut_out, Memory.putRaw_out, PerStream.get_set]
        split_ifs with e
        · subst e
          exact ⟨hr, hb⟩
        · exact hs
      worker := (coupled_idle (by exact hm)).2 ((coupled_idle hm).1 h.worker)
      divider := fun hw => hd (h.divider hw).1 (h.divider hw).2 h.cdN_pos
      formats := ⟨fun st' => by
        simp only [Memory.putOut_out, Memory.putRaw_out, PerStream.get_set]
        split_ifs
        · exact hf
        · exact h.formats.1 st', h.formats.2⟩ }

theorem tickBody_main (st : Stream) (s : State) : (tickBody st s).main = s.main := by
  obtain ⟨_, e⟩ | ⟨_, _, _, _, _, _, _, _, _, e, _⟩ := tickBody_cases st s <;> rw [e]

/-- A tick fired by the timer (R153), if one is due. -/
theorem Inv.fireDue (h : Inv s) (hm : s.main = .idle) : Inv (fireDue s) := by
  unfold Machine.fireDue
  split
  · unfold fireTick
    apply Inv.tickBody
    · exact { h with }
    · exact hm
  · exact h

/-! ## The worker's start and stop (R170 to R172) -/

theorem Inv.startBody (h : Inv s) (hm : s.main = .idle) (w : Word) : Inv (startBody w s) := by
  unfold Machine.startBody
  split_ifs with hl hc
  · exact h.respond hm w .ok
  · rw [Bool.not_eq_true] at hc
    exact { h with
      timers := h.ten_get (freeing_of_idle hm)
      streams := fun _ _ => h.streams hl (freeing_of_idle hm)
      worker := ⟨hc, rfl, hl, rfl, .inl ⟨rfl, rfl⟩⟩
      divider := fun _ => ⟨h.cdN_pos, le_rfl⟩
      pass := ⟨fun _ => rfl, nofun, fun hp => absurd rfl hp⟩ }
  · exact h.respond hm w .notReady

/-- What is left of a stop keeps the invariant where it holds with `LIFE` as a failed RESET will leave it. -/
theorem Inv.afterStop_resetFailed (h : Inv { s with life := .failed, main := .idle }) (w : Word) :
    Inv (afterStop .resetFailed w s) :=
  { h with count := by simp [afterStop], named := by simp [afterStop] }

theorem Inv.afterStop_teardown (h : Inv { s with main := .idle }) (hc : s.cdEnable = false) (w : Word) :
    Inv (afterStop .teardown w s) :=
  { h with
    count := by simp [afterStop]
    named := by simp [afterStop]
    table := fun hl => absurd rfl hl
    timers := fun st => by simp [afterStop]
    streams := nofun
    worker := ⟨h.startEvt_of_idle rfl, .inl ⟨hc, h.absent_of_not_cdEnable rfl hc⟩⟩ }

theorem Inv.stopBody (h : Inv s) (hm : s.main = .idle) {k : AfterStop} (hk : k ≠ .resetFailed) (w : Word) :
    Inv (stopBody k w s) := by
  have hi : Inv { s with main := .idle } := by rw [← hm]; exact h
  unfold Machine.stopBody
  split_ifs with hc
  · obtain ⟨hr, hl, hw⟩ := h.active_of_cdEnable hm hc
    exact { h with
      timers := fun st => by
        rw [freeing_of_awaitExit rfl, decide_eq_false hk]
        exact h.ten_get (freeing_of_idle hm) st
      streams := fun _ _ => h.streams hl (freeing_of_idle hm)
      worker := ⟨hc, rfl, hl, h.startEvt_of_idle hm, .inl ⟨rfl, hw⟩⟩ }
  · rw [Bool.not_eq_true] at hc
    cases k with
    | done => exact h.respond hm w .ok
    | resetFailed => exact absurd rfl hk
    | teardown => exact hi.afterStop_teardown hc w

theorem Inv.sampleBuses (h : Inv s) : Inv (sampleBuses s) := by
  obtain ⟨_, e⟩ := sampleBuses_shape s
  rw [e]
  exact { h with }

theorem sampleBuses_main (s : State) : (sampleBuses s).main = s.main := by
  obtain ⟨_, e⟩ := sampleBuses_shape s
  rw [e]

theorem Inv.checkBody (h : Inv s) (hm : s.main = .idle) (w : Word) : Inv (checkBody w s) := by
  have ht := h.sampleBuses
  have htm := (sampleBuses_main s).trans hm
  unfold Machine.checkBody
  dsimp only
  split_ifs
  · exact ht.startBody htm w
  · exact ht.stopBody htm (by decide) w
  · exact ht.respond htm w .ok

/-! ## RESET (R231), alone or in SETFMT -/

/-- Step 1 of RESET in the format `f`: the timers are off and the streams are freed. -/
def freed (f : Fmt) (s : State) : State := { s with fmt := f, ten := .all false, mem := s.mem.freeStreams f }

theorem resetBody_eq (w : Word) (f : Fmt) (s : State) :
    resetBody w { s with fmt := f } =
      if s.allocOk then checkBody w (freshStreams (freed f s)) else stopBody .resetFailed w (freed f s) := rfl

/-- RESET with memory makes a live context, whatever the one before. -/
theorem Inv.freshStreams (h : Inv s) (hm : s.main = .idle) (hl : s.life ≠ .uninit) (f : Fmt) :
    Inv (freshStreams (freed f s)) :=
  { h with
    mem := by
      have hw := h.mem
      simp only [Memory.wf, Bool.and_eq_true] at hw ⊢
      simp_all [Machine.freshStreams, freshBuffers, freed, Memory.freeStreams, streamSize, sized, PerStream.get]
    pos := fun st => by simpa [Machine.freshStreams, freed] using h.pos_bufLen st
    count := by simp [Machine.freshStreams]
    named := by simp [Machine.freshStreams]
    table := fun _ => h.table hl
    timers := fun st => by simp [Machine.freshStreams, freeing, freed, hm]
    streams := fun _ _ st => by
      cases st <;> simp [Machine.freshStreams, freshBuffers, PerStream.get, streamSize]
    worker := by
      refine (coupled_idle (by exact hm)).2 ⟨h.startEvt_of_idle hm, ((coupled_idle hm).1 h.worker).2.imp_right ?_⟩
      exact fun ⟨hc, hr, _, hw⟩ => ⟨hc, hr, rfl, hw⟩
    formats := ⟨fun st => by cases st <;> simp [Machine.freshStreams, freshBuffers, freed, PerStream.get], h.formats.2⟩ }

/-- RESET without memory: the worker is stopped first, or there is none and the context has failed. -/
theorem Inv.resetFailed (h : Inv s) (hm : s.main = .idle) (hl : s.life ≠ .uninit) (f : Fmt) (w : Word) :
    Inv (Machine.stopBody .resetFailed w (freed f s)) := by
  have hmem : (s.mem.freeStreams f).wf s.cfg = true := freeStreams_keeps_wf f h.mem
  have hfmt : formatsOk (freed f s) := ⟨fun st => by simp [freed, Memory.freeStreams], h.formats.2⟩
  unfold Machine.stopBody
  split_ifs with hc
  · obtain ⟨hr, ha, hw⟩ := h.active_of_cdEnable hm hc
    exact { h with
      mem := hmem
      timers := fun st => by simp [freed, freeing]
      streams := nofun
      worker := ⟨hc, rfl, ha, h.startEvt_of_idle hm, .inl ⟨rfl, hw⟩⟩
      formats := hfmt }
  · rw [Bool.not_eq_true] at hc
    have hi : Inv { freed f s with life := .failed, main := .idle } :=
      { h with
        mem := hmem
        table := fun _ => h.table hl
        timers := fun st => by simp [freed]
        streams := nofun
        worker := ⟨h.startEvt_of_idle hm, .inl ⟨hc, h.absent_of_not_cdEnable hm hc⟩⟩
        formats := hfmt }
    exact hi.afterStop_resetFailed w

theorem Inv.resetBody (h : Inv s) (hm : s.main = .idle) (hl : s.life ≠ .uninit) (f : Fmt) (w : Word) :
    Inv (resetBody w { s with fmt := f }) := by
  rw [resetBody_eq]
  split_ifs
  · exact (h.freshStreams hm hl f).checkBody hm w
  · exact h.resetFailed hm hl f w

/-! ## The main path goes on (R171 step 4, R172 step 3) -/

/-- Step 4 of CDSTART: the worker has signalled its start. -/
theorem Inv.afterReady (h : Inv s) {w : Word} (hm : s.main = .awaitReady w) (he : s.startEvt = true) :
    Inv (afterReady w s) := by
  have hf : freeing s = false := by simp [freeing, hm]
  obtain ⟨_, hr, hl, _, hw⟩ := (coupled_awaitReady hm).1 h.worker
  have hw : s.wState = .waiting := by simpa [he] using hw
  exact { h with
    timers := h.ten_get hf
    streams := fun _ _ => h.streams hl hf
    worker := ⟨rfl, .inr ⟨rfl, hr, hl, .inl hw⟩⟩ }

/-- The release of the worker (R172 step 3). -/
def released (s : State) : State := { ({ s with wState := .absent }.clearSig.clearStart) with cdEnable := false }

theorem afterExit_eq (k : AfterStop) (w : Word) (s : State) : afterExit k w s = afterStop k w (released s) := rfl

/-- The release keeps the invariant with `LIFE` as the rest of the command finds it, or as a failed RESET leaves it. -/
theorem Inv.released {k : AfterStop} {w : Word} (h : Inv s) (hm : s.main = .awaitExit k w) (he : s.wState = .exited)
    {l : Life} (hl : l = if k = .resetFailed then .failed else .active) :
    Inv { released s with life := l, main := .idle } := by
  obtain ⟨_, _, ha, _⟩ := (coupled_awaitExit hm).1 h.worker
  have hf := freeing_of_awaitExit hm
  have hk : l = .active → freeing s = false := by
    rw [hf]
    split_ifs at hl with hk <;> simp [hl, hk]
  exact { h with
    table := fun _ => h.table (by simp [ha])
    timers := fun st => by
      rw [show (Machine.released s).ten = s.ten from rfl, h.timers st, ha, hf]
      split_ifs at hl with hk <;> simp [hl, hk, freeing]
    streams := fun hl' _ => h.streams ha (hk hl')
    worker := ⟨rfl, .inl ⟨rfl, rfl⟩⟩
    divider := fun hw => absurd rfl hw
    pass := ⟨fun _ => h.pass.1 (by simp [he]), h.pass.2⟩ }

theorem Inv.afterExit (h : Inv s) {k : AfterStop} {w : Word} (hm : s.main = .awaitExit k w) (he : s.wState = .exited) :
    Inv (afterExit k w s) := by
  obtain ⟨_, _, ha, _⟩ := (coupled_awaitExit hm).1 h.worker
  rw [afterExit_eq]
  cases k with
  | done => exact (h.released hm he ha).respond rfl w .ok
  | resetFailed => exact (h.released hm he rfl).afterStop_resetFailed w
  | teardown => exact (h.released hm he ha).afterStop_teardown rfl w

theorem Inv.resume (h : Inv s) : Inv (resume s) := by
  unfold Machine.resume mainReady
  cases hm : s.main with
  | idle => exact h
  | awaitReady w =>
    split_ifs with hr
    · exact h.afterReady hm hr
    · exact h
  | awaitExit k w =>
    split_ifs with hr
    · exact h.afterExit hm (of_decide_eq_true hr)
    · exact h

/-! ## The worker's steps (R180 to R183) -/

/-- The outcome is a next state of the invariant, or a refusal. -/
def KeepsInv : Out → Prop
  | .next t => Inv t
  | .fault _ => False
  | .refused _ => True

theorem execWready_keepsInv (h : Inv s) : KeepsInv (execWready s) := by
  unfold execWready
  split_ifs with hw
  · exact { h with
      worker := coupled_ready h.worker hw
      divider := fun _ => h.divider (by simp [hw])
      pass := ⟨fun _ => h.pass.1 (by simp [hw]), h.pass.2⟩ }
  · exact h

theorem Memory.wf_cdout {c : Params} {m : Memory} (h : m.wf c = true) :
    sized m.cdout.length (2 * c.cdBufLen) = true := by
  simp only [Memory.wf, Bool.and_eq_true] at h
  tauto

theorem execWwake_keepsInv (h : Inv s) : KeepsInv (execWwake s) := by
  unfold execWwake
  dsimp only
  split_ifs with hw hr
  · exact { h with
      mem := putCdout_keeps_wf _ h.mem (Block.retype_sized s.fmt (Memory.wf_cdout h.mem))
      worker := coupled_wake h.worker hw.1 hw.2 hr
      divider := fun _ => h.divider (by simp [hw])
      pass := ⟨fun _ => rfl, nofun, fun hp => absurd rfl hp⟩
      formats := ⟨h.formats.1, Block.retype_fmt s.fmt _⟩ }
  · exact { h with
      worker := coupled_leave h.worker hw.1 hw.2 (by simpa using hr)
      divider := fun _ => h.divider (by simp [hw])
      pass := ⟨fun _ => h.pass.1 (by simp [hw]), h.pass.2⟩ }
  · exact h

theorem Inv.mixClear (h : Inv s) (hw : s.wState = .mixing) : Inv (mixClear s) :=
  { h with
    mem := putCdout_keeps_wf _ h.mem (by simp [sized, cdSize, Machine.mixClear])
    pass := by
      refine ⟨fun hn => absurd hw hn, fun d hd => ?_, fun _ => Block.zeros_length _ _⟩
      unfold Machine.mixClear MixPos.first at hd
      dsimp only at hd
      split_ifs at hd with hn
      cases hd
      exact hn
    formats := ⟨h.formats.1, Block.zeros_fmt _ _⟩ }

/-- MIX.drive finds its table and its block in order, so it completes. -/
theorem mixDrive_keepsInv (h : Inv s) (hw : s.wState = .mixing) {d : Nat} (hp : s.mixPos = .drive d) :
    KeepsInv (mixDrive d s) := by
  have hl : s.mem.cdout.length = cdSize s := h.pass.2.2 (by simp [hp])
  have hv : s.mem.voltab.length = 256 := by
    simp [h.table (by simp [h.active_of_mixing hw]), volumeTable]
  obtain ⟨_, e⟩ := mixDrive_completes d hv hl h.formats.2
  obtain ⟨c, b, ad, af, n, hh, rfl, hcd, hb⟩ := mixDrive_next e
  have hbl : b.length = cdSize s := by
    obtain rfl | ⟨hb, _⟩ := hb
    · exact hl
    · exact hb
  have hbf : b.fmt = s.wFmt := by
    obtain rfl | ⟨_, hb⟩ := hb
    · exact h.formats.2
    · exact hb
  rw [e]
  exact { h with
    mem := by
      show ((({ s.mem with cdbuf := c } : Memory)).putCdout b).wf s.cfg = true
      refine putCdout_keeps_wf b ?_ (by simp [sized, hbl, cdSize])
      obtain rfl | ⟨blk, hblk, rfl⟩ := hcd
      · exact h.mem
      · exact putCdbuf_keeps_wf d blk h.mem (by simp [sized, hblk, cdSize])
    pass := by
      refine ⟨fun hn => absurd hw hn, fun d' hd => ?_, fun _ => hbl⟩
      unfold MixPos.after at hd
      dsimp only at hd
      split_ifs at hd with hn
      cases hd
      exact hn
    formats := ⟨h.formats.1, hbf⟩ }

theorem Inv.mixDeliver (h : Inv s) (hw : s.wState = .mixing) : Inv (mixDeliver s) :=
  { h with
    worker := coupled_delivered h.worker hw
    divider := fun _ => h.divider (by simp [hw])
    pass := ⟨fun _ => rfl, nofun, fun hp => absurd rfl hp⟩ }

theorem execWmix_keepsInv (h : Inv s) : KeepsInv (execWmix s) := by
  unfold execWmix
  split_ifs with hw
  · split
    · exact h.mixClear hw
    · exact mixDrive_keepsInv h hw ‹_›
    · exact h.mixDeliver hw
  · exact h

/-! ## Every operation the main path takes, and the turns of the schedule (R67) -/

/-- A well-formed command, taken by an idle main path. -/
theorem exec_keepsInv (h : Inv s) (hm : s.main = .idle) {i : Instr} (hw : i.wf = true)
    (he : (encode i).isSome = true) :
    KeepsInv (exec i s) := by
  have raise : ∀ w st, KeepsInv (raiseStatus w st s) := fun w st => h.respond hm w st
  have answer : ∀ {u : State} w st, Inv u → u.main = .idle → KeepsInv (.next (u.respond w st)) :=
    fun w st hu hum => hu.respond hum w st
  cases i with
  | init =>
    simp only [exec, execInit]
    split_ifs with hl
    · exact answer _ _ (h.init hm hl) hm
    · exact raise _ _
  | reset =>
    simp only [exec, execReset]
    split_ifs with hl
    · exact raise _ _
    · exact h.resetBody hm hl s.fmt _
  | setfmt f =>
    simp only [exec, execSetfmt]
    split_ifs with hl
    · exact raise _ _
    · exact answer _ _ h hm
    · exact h.resetBody hm hl f _
  | teardown => exact h.stopBody hm (by decide) _
  | regh st cb ctx =>
    simp only [exec, execRegh]
    split_ifs with hl hn
    · exact raise _ _
    · exact answer _ _ (h.regh st (by simpa [Instr.wf] using hw) hn) hm
    · exact raise _ _
  | tick st =>
    simp only [exec, execTick]
    split_ifs with hl
    · exact answer _ _ (h.tickBody hm st) ((tickBody_main st s).trans hm)
    · exact raise _ _
  | speedchg =>
    simp only [exec, execSpeedchg]
    split_ifs with hl
    · exact answer _ _ { h with } hm
    · exact raise _ _
  | setcdvol left right =>
    simp only [exec, execSetcdvol]
    split_ifs with hl
    · exact raise _ _
    · exact answer _ _ { h with } hm
  | setfilt k cb ctx =>
    simp only [exec, execSetfilt]
    split_ifs with hl hc hf
    · exact raise _ _
    · exact answer _ _ { h with } hm
    · exact answer _ _ { h with } hm
    · exact raise _ _
  | cdcheck =>
    simp only [exec, execCdcheck]
    split_ifs with hl
    · exact h.checkBody hm _
    · exact raise _ _
  | cdstart => exact h.startBody hm _
  | cdstop => exact h.stopBody hm (by decide) _
  | flush st => cases he
  | cdsig => cases he
  | timeadv t => cases he
  | wready => cases he
  | wwake => cases he
  | wmix => cases he

theorem workerTurn_keepsInv (h : Inv s) : KeepsInv (workerTurn s) := by
  unfold workerTurn
  split
  · exact execWready_keepsInv h
  · exact execWwake_keepsInv h
  · exact execWmix_keepsInv h
  · exact h
  · exact h

theorem waitTurn_keepsInv (h : Inv s) : KeepsInv (waitTurn s) := by
  unfold waitTurn
  split_ifs
  · exact h.resume
  · exact workerTurn_keepsInv h

theorem acceptWord_keepsInv (h : Inv s) (hm : s.main = .idle) (w : Word) : KeepsInv (acceptWord w s) := by
  unfold acceptWord
  split
  · rename_i i hi
    obtain ⟨hw, he⟩ := decode_wf hi
    exact exec_keepsInv h hm hw he
  · exact h.respond hm w _

theorem environmentTurn_keepsInv (h : Inv s) (m : EnvMove) : KeepsInv (environmentTurn m s) := by
  unfold environmentTurn
  cases m with
  | now t =>
    simp only [exec, execTimeadv]
    split_ifs
    · exact { h with }
    · trivial
  | timeHz n =>
    dsimp only
    split_ifs with hn
    · have hc := h.cfg
      exact { h with
        cfg := by
          simp only [Params.wf, Bool.and_eq_true, decide_eq_true_eq] at hc ⊢
          tauto }
    · trivial
  | drive d x =>
    dsimp only
    split_ifs
    · exact { h with slots := (List.length_set ..).trans h.slots }
    · trivial
  | allocOk b => exact { h with }
  | source v => exact { h with }
  | decode r blk => exact { h with }
  | filter x => exact { h with }

theorem restTurn_keepsInv (h : Inv s) : KeepsInv (restTurn s) := by
  unfold restTurn
  split_ifs with hm
  · exact waitTurn_keepsInv h
  · exact workerTurn_keepsInv h
  · exact h.fireDue (not_not.1 hm)

/-- Every step from a state of the invariant leads to one, or is refused. -/
theorem step_keepsInv (h : Inv s) : KeepsInv (step s) := by
  have rest : ∀ l, Inv { s with agenda := l } := fun l => { h with }
  unfold step takeTurn
  split
  case h_1 => exact restTurn_keepsInv h
  case h_2 w l _ =>
    split_ifs with hm
    · exact acceptWord_keepsInv (rest l) hm w
    · exact waitTurn_keepsInv h
  case h_3 l _ =>
    split_ifs with hm
    · exact (rest l).fireDue hm
    · exact waitTurn_keepsInv h
  case h_4 l _ => exact (rest l).resume
  case h_5 l _ => exact workerTurn_keepsInv (rest l)
  case h_6 m l _ => exact environmentTurn_keepsInv (rest l) m

/-- Settles O56: each turn of the schedule keeps the invariant. -/
theorem stepKeepsInvariant : Obligations.StepKeepsInvariant := by
  intro s t h e
  have hk := step_keepsInv h
  rwa [e] at hk

/-- Settles O57: MIX.drive, the one operation that can fault, completes from every state of the invariant. -/
theorem invariantExcludesFaults : Obligations.InvariantExcludesFaults := by
  intro s r h e
  have hk := step_keepsInv h
  rwa [e] at hk

end Sys2Proof.Machine
end

section
/-! O11, O45: what the commands leave alone. The shared bodies are each given once by the fields they write. -/

namespace Sys2Proof.Machine

/-! ## What holds of every next state an operation leads to -/

/-- If the operation completes, its next state has the property. -/
def Leads (o : Out) (P : State → Prop) : Prop := ∀ t, o = .next t → P t

variable {P : State → Prop}

@[simp] theorem leads_next {t : State} : Leads (.next t) P ↔ P t :=
  ⟨fun h => h t rfl, fun h _ e => Host.Outcome.next.inj e ▸ h⟩

@[simp] theorem leads_fault (r : Fault) : Leads (.fault r) P := fun _ e => nomatch e

@[simp] theorem leads_refused (r : Refusal) : Leads (.refused r) P := fun _ e => nomatch e

@[simp] theorem leads_raiseStatus {w : Word} {st : Status} {s : State} :
    Leads (raiseStatus w st s) P ↔ P (s.respond w st) := leads_next

@[simp] theorem leads_ite {c : Prop} [Decidable c] {a b : Out} :
    Leads (if c then a else b) P ↔ (c → Leads a P) ∧ (¬c → Leads b P) := by
  split_ifs with h <;> simp [h]

/-! ## The fields that the start, the stop and the check write (R170 to R172) -/

theorem startBody_shape (w : Word) (s : State) : ∃ st m r g e d ws mp h,
    startBody w s = { s with status := st, main := m, run := r, sig := g, startEvt := e, cdDiv := d, wState := ws,
                             mixPos := mp, hist := h ++ s.hist } ∧
    (ws = s.wState ∨ ws = .starting) := by
  unfold startBody
  split_ifs
  · exact ⟨_, _, _, _, _, _, _, _, [_], rfl, .inl rfl⟩
  · exact ⟨_, _, _, _, _, _, _, _, [_, _], rfl, .inr rfl⟩
  · exact ⟨_, _, _, _, _, _, _, _, [_], rfl, .inl rfl⟩

theorem stopBody_shape (k : AfterStop) (w : Word) (s : State) : ∃ st m r g l hs ten fl h,
    stopBody k w s = { s with status := st, main := m, run := r, sig := g, life := l, handlers := hs, ten := ten,
                              filt := fl, hist := h ++ s.hist } := by
  unfold stopBody
  split_ifs
  · exact ⟨_, _, _, _, _, _, _, _, [_], rfl⟩
  · cases k <;> exact ⟨_, _, _, _, _, _, _, _, [_], rfl⟩

/-! ## O11: the overflow flag (R26, R125, R260) -/

@[simp] theorem cdSignal_accOvf (s : State) : (cdSignal s).accOvf = s.accOvf := by
  obtain ⟨_, _, _, _, e, _⟩ := cdSignal_shape s
  rw [e]

theorem flush_accOvf (st : Stream) (s : State) (h : s.accOvf = true) : (flush st s).accOvf = true := by
  obtain ⟨_, _, _, _, _, _, _, _, e, _, _, _, hv, _⟩ := flush_shape st s
  rw [e]
  exact hv h

theorem tickBody_accOvf (st : Stream) (s : State) (h : s.accOvf = true) : (tickBody st s).accOvf = true := by
  obtain ⟨_, e⟩ | ⟨_, _, _, _, _, _, _, _, _, e, _, _, _, hv, _⟩ := tickBody_cases st s <;> rw [e]
  · exact h
  · exact hv h

@[simp] theorem startBody_accOvf (w : Word) (s : State) : (startBody w s).accOvf = s.accOvf := by
  obtain ⟨_, _, _, _, _, _, _, _, _, e, _⟩ := startBody_shape w s
  rw [e]

@[simp] theorem stopBody_accOvf (k : AfterStop) (w : Word) (s : State) : (stopBody k w s).accOvf = s.accOvf := by
  obtain ⟨_, _, _, _, _, _, _, _, _, e⟩ := stopBody_shape k w s
  rw [e]

@[simp] theorem sampleBuses_accOvf (s : State) : (sampleBuses s).accOvf = s.accOvf := by
  obtain ⟨_, e⟩ := sampleBuses_shape s
  rw [e]

@[simp] theorem checkBody_accOvf (w : Word) (s : State) : (checkBody w s).accOvf = s.accOvf := by
  unfold checkBody
  dsimp only
  split_ifs <;> simp

theorem execWmix_accOvf (s : State) : Leads (execWmix s) fun t => t.accOvf = s.accOvf := by
  intro t h
  obtain ⟨_, rfl⟩ | ⟨_, _, rfl⟩ | ⟨d, _, _, e⟩ | ⟨_, _, rfl⟩ := execWmix_next h
  · rfl
  · rfl
  · obtain ⟨_, _, _, _, _, _, rfl, _⟩ := mixDrive_next e
    rfl
  · rfl

/-- The operations that do not touch the flag. -/
theorem exec_accOvf (i : Instr) (s : State) (hinit : i ≠ .init) (hreset : i ≠ .reset) (hfmt : ∀ f, i ≠ .setfmt f)
    (hst : ∀ st, i ≠ .tick st ∧ i ≠ .flush st) : Leads (exec i s) fun t => t.accOvf = s.accOvf := by
  cases i with
  | init => exact absurd rfl hinit
  | reset => exact absurd rfl hreset
  | setfmt f => exact absurd rfl (hfmt f)
  | tick st => exact absurd rfl (hst st).1
  | flush st => exact absurd rfl (hst st).2
  | teardown => simp [exec, execTeardown]
  | regh st cb ctx => simp [exec, execRegh]
  | speedchg => simp [exec, execSpeedchg]
  | setcdvol left right => simp [exec, execSetcdvol]
  | setfilt k cb ctx => simp [exec, execSetfilt]
  | cdcheck => simp [exec, execCdcheck]
  | cdstart => simp [exec, execCdstart]
  | cdstop => simp [exec, execCdstop]
  | cdsig => simp [exec, execCdsig]
  | timeadv t => simp [exec, execTimeadv]
  | wready => simp [exec, execWready]
  | wwake => simp [exec, execWwake]
  | wmix => exact execWmix_accOvf s

theorem exec_tick_accOvf (st : Stream) (s : State) (h : s.accOvf = true) :
    Leads (exec (.tick st) s) fun t => t.accOvf = true := by
  simp [exec, execTick, h, tickBody_accOvf]

theorem exec_flush_accOvf (st : Stream) (s : State) (h : s.accOvf = true) :
    Leads (exec (.flush st) s) fun t => t.accOvf = true := by
  simp [exec, execFlush, h, flush_accOvf]

/-- Settles O11: TICK and FLUSH keep a set flag, every other operation keeps the flag. -/
theorem overflowFlagIsSticky : Obligations.OverflowFlagIsSticky := by
  intro i s t hinit hreset hfmt e
  refine ⟨fun h => ?_, fun hst => exec_accOvf i s hinit hreset hfmt hst t e⟩
  by_cases hst : ∀ st, i ≠ .tick st ∧ i ≠ .flush st
  · rw [exec_accOvf i s hinit hreset hfmt hst t e, h]
  · simp only [not_forall, not_and_or, not_not] at hst
    obtain ⟨st, rfl | rfl⟩ := hst
    · exact exec_tick_accOvf st s h t e
    · exact exec_flush_accOvf st s h t e

/-! ## O45: what the commands spare (R20, R64, R262) -/

/-- What the commands but INIT leave alone: the worker's latches and buffers, the table, the inputs and the parameters;
the worker's phase changes only at creation. -/
structure Spares (s t : State) : Prop where
  wFmt : t.wFmt = s.wFmt
  wFilt : t.wFilt = s.wFilt
  cdout : t.mem.cdout = s.mem.cdout
  cdbuf : t.mem.cdbuf = s.mem.cdbuf
  voltab : t.mem.voltab = s.mem.voltab
  wState : t.wState = s.wState ∨ t.wState = .starting
  now : t.now = s.now
  drives : t.drives = s.drives
  cfg : t.cfg = s.cfg

theorem Spares.refl (s : State) : Spares s s := ⟨rfl, rfl, rfl, rfl, rfl, .inl rfl, rfl, rfl, rfl⟩

theorem startBody_spares (w : Word) (s : State) : Spares s (startBody w s) := by
  obtain ⟨_, _, _, _, _, _, _, _, _, e, hw⟩ := startBody_shape w s
  rw [e]
  exact { Spares.refl s with wState := hw }

theorem stopBody_spares (k : AfterStop) (w : Word) (s : State) : Spares s (stopBody k w s) := by
  obtain ⟨_, _, _, _, _, _, _, _, _, e⟩ := stopBody_shape k w s
  rw [e]
  exact { Spares.refl s with }

theorem checkBody_spares (w : Word) (s : State) : Spares s (checkBody w s) := by
  unfold checkBody
  obtain ⟨h, e⟩ := sampleBuses_shape s
  dsimp only
  rw [e]
  split_ifs
  · exact { startBody_spares w { s with hist := h ++ s.hist } with }
  · exact { stopBody_spares .done w { s with hist := h ++ s.hist } with }
  · exact { Spares.refl s with }

theorem resetBody_spares (w : Word) (s : State) : Spares s (resetBody w s) := by
  unfold resetBody
  dsimp only
  split_ifs
  · exact { checkBody_spares w (freshStreams _) with }
  · exact { stopBody_spares .resetFailed w _ with }

theorem tickBody_spares (st : Stream) (s : State) : Spares s (tickBody st s) := by
  obtain ⟨_, e⟩ | ⟨_, _, _, _, _, _, _, _, _, e, _⟩ := tickBody_cases st s <;> rw [e]
  · exact { Spares.refl s with }
  · exact { Spares.refl s with }

/-- A response writes none of these elements. -/
theorem Spares.respond {s u : State} (h : Spares s u) (w : Word) (st : Status) : Spares s (u.respond w st) :=
  { h with }

theorem exec_spares (i : Instr) (s : State) (he : (encode i).isSome = true) (hi : i ≠ .init) :
    Leads (exec i s) (Spares s) := by
  have raise : ∀ w st, Spares s (s.respond w st) := (Spares.refl s).respond
  cases i with
  | init => exact absurd rfl hi
  | reset => simp [exec, execReset, raise, resetBody_spares]
  | setfmt f =>
    simp only [exec, execSetfmt, leads_ite, leads_raiseStatus, leads_next]
    exact ⟨fun _ => raise _ _, fun _ => ⟨fun _ => raise _ _, fun _ => { resetBody_spares _ { s with fmt := f } with }⟩⟩
  | teardown => exact leads_next.2 (stopBody_spares _ _ s)
  | regh st cb ctx =>
    simp only [exec, execRegh, leads_ite, leads_raiseStatus, leads_next]
    exact ⟨fun _ => ⟨fun _ => raise _ _, fun _ => { Spares.refl s with }⟩, fun _ => raise _ _⟩
  | tick st => simp [exec, execTick, raise, (tickBody_spares st s).respond]
  | speedchg =>
    simp only [exec, execSpeedchg, leads_ite, leads_raiseStatus, leads_next]
    exact ⟨fun _ => { Spares.refl s with }, fun _ => raise _ _⟩
  | setcdvol left right =>
    simp only [exec, execSetcdvol, leads_ite, leads_raiseStatus, leads_next]
    exact ⟨fun _ => raise _ _, fun _ => { Spares.refl s with }⟩
  | setfilt k cb ctx =>
    simp only [exec, execSetfilt, leads_ite, leads_raiseStatus, leads_next]
    exact ⟨fun _ => raise _ _, fun _ => ⟨fun _ => { Spares.refl s with },
      fun _ => ⟨fun _ => { Spares.refl s with }, fun _ => raise _ _⟩⟩⟩
  | cdcheck => simp [exec, execCdcheck, raise, checkBody_spares]
  | cdstart => exact leads_next.2 (startBody_spares _ s)
  | cdstop => exact leads_next.2 (stopBody_spares _ _ s)
  | flush st => cases he
  | cdsig => cases he
  | timeadv t => cases he
  | wready => cases he
  | wwake => cases he
  | wmix => cases he

/-- INIT spares all but the table. -/
theorem execInit_spares (s : State) :
    Leads (execInit s) fun t => Spares s { t with mem := { t.mem with voltab := s.mem.voltab } } := by
  simp only [execInit, leads_ite, leads_raiseStatus, leads_next]
  exact ⟨fun _ => { Spares.refl s with }, fun _ => { Spares.refl s with }⟩

/-- Settles O45: INIT writes the table, no other command one of the named elements but the phase at creation. -/
theorem commandsLeaveWorkerState : Obligations.CommandsLeaveWorkerState := by
  intro i s t he e
  by_cases hi : i = .init
  · subst hi
    have h := execInit_spares s t e
    exact ⟨h.wFmt, h.wFilt, h.cdout, h.cdbuf, fun hn => absurd rfl hn, h.wState, h.now, h.drives, h.cfg⟩
  · have h := exec_spares i s he hi t e
    exact ⟨h.wFmt, h.wFilt, h.cdout, h.cdbuf, fun _ => h.voltab, h.wState, h.now, h.drives, h.cfg⟩

end Sys2Proof.Machine
end

section
/-! O10, O43, O44: what the operations that are no commands leave alone, and what a pass does not see. -/

namespace Sys2Proof.Machine

/-! ## O10: no `STATUS`, no `LIFE`, no response (R25, R250) -/

/-- The step leaves `STATUS` and `LIFE` and adds no response. -/
structure Quiet (s t : State) : Prop where
  status : t.status = s.status
  life : t.life = s.life
  hist : ∃ h, t.hist = h ++ s.hist ∧ Silent h

theorem Quiet.refl (s : State) : Quiet s s := ⟨rfl, rfl, [], rfl, by simp [Silent]⟩

/-- A response in the history after a quiet step was there before. -/
theorem Quiet.response_mem {s t : State} (q : Quiet s t) (w : Word) (st : Status) :
    Event.response w st ∈ t.hist ↔ Event.response w st ∈ s.hist := by
  obtain ⟨h, e, hs⟩ := q.hist
  rw [e, List.mem_append]
  exact or_iff_right fun hm => hs _ hm w st rfl

theorem cdSignal_quiet (s : State) : Quiet s (cdSignal s) := by
  obtain ⟨h, eh, hs, _⟩ := cdSignal_hist s
  obtain ⟨_, _, _, _, e, _⟩ := cdSignal_shape s
  exact ⟨by rw [e], by rw [e], h, eh, hs⟩

theorem flush_quiet (st : Stream) (s : State) : Quiet s (flush st s) := by
  obtain ⟨h, _, eh, hs, _⟩ := flush_hist st s
  obtain ⟨_, _, _, _, _, _, _, _, e, _⟩ := flush_shape st s
  exact ⟨by rw [e], by rw [e], h, eh, hs⟩

theorem mixDrive_quiet {d : Nat} {s t : State} (e : mixDrive d s = .next t) : Quiet s t := by
  obtain ⟨h, eh, hs, _⟩ := mixDrive_hist e
  obtain ⟨_, _, _, _, _, _, et, _⟩ := mixDrive_next e
  exact ⟨by rw [et], by rw [et], h, eh, hs⟩

theorem execWready_quiet {s t : State} (e : execWready s = .next t) : Quiet s t := by
  unfold execWready at e
  split_ifs at e <;> obtain rfl := Host.Outcome.next.inj e
  · exact ⟨rfl, rfl, [.setStart], rfl, by simp [Silent]⟩
  · exact .refl _

theorem execWwake_quiet {s t : State} (e : execWwake s = .next t) : Quiet s t := by
  unfold execWwake at e
  dsimp only at e
  split_ifs at e <;> obtain rfl := Host.Outcome.next.inj e
  · exact ⟨rfl, rfl, [.clearSig], rfl, by simp [Silent]⟩
  · exact ⟨rfl, rfl, [.clearSig], rfl, by simp [Silent]⟩
  · exact .refl _

theorem execWmix_quiet {s t : State} (e : execWmix s = .next t) : Quiet s t := by
  obtain ⟨_, rfl⟩ | ⟨_, _, rfl⟩ | ⟨d, _, _, e⟩ | ⟨_, _, rfl⟩ := execWmix_next e
  · exact .refl _
  · exact { Quiet.refl s with }
  · exact mixDrive_quiet e
  · exact ⟨rfl, rfl, [.deliver .cd s.mem.cdout], rfl, by simp [Silent]⟩

theorem execTimeadv_quiet {u : Time} {s t : State} (e : execTimeadv u s = .next t) : Quiet s t := by
  unfold execTimeadv at e
  split_ifs at e
  obtain rfl := Host.Outcome.next.inj e
  exact { Quiet.refl s with }

/-- Settles O10: the six operations without a command word are quiet. -/
theorem onlyCommandsWriteStatus : Obligations.OnlyCommandsWriteStatus := by
  intro i s t hi e
  have q : Quiet s t := by
    cases i with
    | flush st => exact Host.Outcome.next.inj e ▸ flush_quiet st s
    | cdsig => exact Host.Outcome.next.inj e ▸ cdSignal_quiet s
    | timeadv u => exact execTimeadv_quiet e
    | wready => exact execWready_quiet e
    | wwake => exact execWwake_quiet e
    | wmix => exact execWmix_quiet e
    | _ => cases hi
  exact ⟨q.status, q.life, q.response_mem⟩

/-! ## O44: what the worker writes (R20, R64, R265) -/

/-- The step writes of the buffers only `CDBUF` and `CDOUT`, of the answers none of the sources', and of the registers
only the worker's own, the two events, the counter and the history. -/
structure WorkerOnly (s t : State) : Prop where
  mem : { t.mem with cdbuf := s.mem.cdbuf, cdout := s.mem.cdout } = s.mem
  source : t.answers.source = s.answers.source
  frame : { t with mem := s.mem, wState := s.wState, wFmt := s.wFmt, wFilt := s.wFilt, sig := s.sig,
                   startEvt := s.startEvt, mixPos := s.mixPos, answers := s.answers, draws := s.draws,
                   hist := s.hist } = s

theorem WorkerOnly.refl (s : State) : WorkerOnly s s := ⟨rfl, rfl, rfl⟩

/-- Memories that agree but in `CDBUF` and `CDOUT` read alike in the other buffers. -/
theorem read_of_agree {m n : Memory} (h : { n with cdbuf := m.cdbuf, cdout := m.cdout } = m) {sp : Space} (i : Nat)
    (hout : sp ≠ .cdout) (hbuf : ∀ d, sp ≠ .cdbuf d) : n.read sp i = m.read sp i := by
  rw [← h]
  cases sp with
  | raw st => rfl
  | out st => rfl
  | cdbuf d => exact absurd rfl (hbuf d)
  | cdout => exact absurd rfl hout
  | voltab => rfl

theorem execWready_workerOnly {s t : State} (e : execWready s = .next t) : WorkerOnly s t := by
  unfold execWready at e
  split_ifs at e <;> obtain rfl := Host.Outcome.next.inj e
  · exact { WorkerOnly.refl s with }
  · exact .refl _

theorem execWwake_workerOnly {s t : State} (e : execWwake s = .next t) : WorkerOnly s t := by
  unfold execWwake at e
  dsimp only at e
  split_ifs at e <;> obtain rfl := Host.Outcome.next.inj e
  · exact { WorkerOnly.refl s with }
  · exact { WorkerOnly.refl s with }
  · exact .refl _

theorem execWmix_workerOnly {s t : State} (e : execWmix s = .next t) : WorkerOnly s t := by
  obtain ⟨_, rfl⟩ | ⟨_, _, rfl⟩ | ⟨d, _, _, e⟩ | ⟨_, _, rfl⟩ := execWmix_next e
  · exact .refl _
  · exact { WorkerOnly.refl s with }
  · obtain ⟨_, _, _, _, _, _, rfl, _⟩ := mixDrive_next e
    exact { WorkerOnly.refl s with }
  · exact { WorkerOnly.refl s with }

/-- Settles O44, from what each of the worker's three operations writes. -/
theorem workerWritesOnlyItsOwn : Obligations.WorkerWritesOnlyItsOwn := by
  intro i s t hi e
  have h : WorkerOnly s t := by
    obtain rfl | rfl | rfl := hi
    · exact execWready_workerOnly e
    · exact execWwake_workerOnly e
    · exact execWmix_workerOnly e
  exact ⟨fun _ i hout hbuf => read_of_agree h.mem i hout hbuf, h.source, h.frame⟩

/-! ## O43: what a pass does not see (R37, R71, R288) -/

/-- The registers of the main path that a pass does not see (R37, R71). -/
structure Unseen where
  fmt : Fmt
  filt : PerKind Slot
  cdVolL : BitVec 16
  cdVolR : BitVec 16
  pos : PerStream Nat
  handlers : PerStream (List Slot)

/-- The state with other values in them. -/
def State.withUnseen (s : State) (u : Unseen) : State :=
  { s with fmt := u.fmt, filt := u.filt, cdVolL := u.cdVolL, cdVolR := u.cdVolR, pos := u.pos, handlers := u.handlers }

/-- The outcome with other values in the next state's. -/
def withUnseenOut (u : Unseen) : Out → Out
  | .next t => .next (t.withUnseen u)
  | .fault r => .fault r
  | .refused r => .refused r

variable (u : Unseen) (s : State)

theorem withUnseenOut_ite (c : Prop) [Decidable c] (a b : Out) :
    withUnseenOut u (if c then a else b) = if c then withUnseenOut u a else withUnseenOut u b := by
  split_ifs <;> rfl

theorem mixFrames_withUnseen (p : Sampled) : mixFrames p (s.withUnseen u) = withUnseenOut u (mixFrames p s) := by
  have ha : accumulated (s.withUnseen u) p = accumulated s p := rfl
  unfold mixFrames
  rw [ha]
  cases accumulated s p <;> rfl

theorem mixBlock_withUnseen (d : Nat) (blk : List I16) :
    mixBlock d blk (s.withUnseen u) = withUnseenOut u (mixBlock d blk s) := by
  have hm : (s.withUnseen u).mem = s.mem := rfl
  have hd : driveAt (s.withUnseen u) d = driveAt s d := rfl
  unfold mixBlock
  dsimp only
  rw [hm, hd]
  split
  · exact mixFrames_withUnseen u ((s.record _).record _) _
  · rfl

theorem pollDrive_withUnseen (d : Nat) : pollDrive d (s.withUnseen u) = (pollDrive d s).withUnseen u := by
  have hd : driveAt (s.withUnseen u) d = driveAt s d := rfl
  unfold pollDrive
  dsimp only
  rw [hd]
  split_ifs <;> rfl

theorem mixDrive_withUnseen (d : Nat) : mixDrive d (s.withUnseen u) = withUnseenOut u (mixDrive d s) := by
  have hd : driveAt (s.withUnseen u) d = driveAt s d := rfl
  have ha : ((pollDrive d s).withUnseen u).decodeAnswer = (pollDrive d s).decodeAnswer := rfl
  have hc : ((pollDrive d s).withUnseen u).decodeCalled d = ((pollDrive d s).decodeCalled d).withUnseen u := rfl
  unfold mixDrive
  dsimp only
  rw [pollDrive_withUnseen, hd, ha, hc, mixBlock_withUnseen, withUnseenOut_ite, withUnseenOut_ite]
  rfl

/-- A sub-step of the pass commutes with a change of the registers it does not see. -/
theorem execWmix_withUnseen : execWmix (s.withUnseen u) = withUnseenOut u (execWmix s) := by
  have hw : (s.withUnseen u).wState = s.wState := rfl
  have hp : (s.withUnseen u).mixPos = s.mixPos := rfl
  unfold execWmix
  rw [withUnseenOut_ite, hw, hp]
  congr 1
  cases s.mixPos with
  | clear => rfl
  | drive d => exact mixDrive_withUnseen u s d
  | deliver => rfl

/-- Settles O43: the six registers as one `Unseen`. -/
theorem passSeesOnlyItsLatches : Obligations.PassSeesOnlyItsLatches := by
  intro s t f g l r p h e
  have hc := execWmix_withUnseen ⟨f, g, l, r, p, h⟩ s
  change execWmix s = _ at e
  rwa [e] at hc

end Sys2Proof.Machine
end

section
/-! O54, O55: power-on, and what INIT leaves in the elements R48 does not specify. -/

namespace Sys2Proof.Machine

/-- Settles O54: the values at power-on; INIT frees the streams and builds the table, and every buffer but the table reads
as freeing the streams leaves it. -/
theorem powerOnState : Obligations.PowerOnState := by
  refine ⟨⟨rfl, rfl, rfl, fun st => by cases st <;> exact ⟨rfl, rfl⟩, rfl, rfl, rfl, rfl, rfl, rfl⟩, fun s hl => ?_⟩
  have hread : ∀ sp i, sp ≠ .voltab →
      ((s.mem.freeStreams s.cfg.fmtDefault).putVoltab (volumeTable s.cfg)).read sp i =
        (s.mem.freeStreams s.cfg.fmtDefault).read sp i := fun sp i => read_putVoltab_other _ _ i
  refine ⟨_, if_pos hl, rfl, rfl, rfl, rfl, rfl, fun st i => ⟨?_, ?_⟩, fun d i => ?_, fun i => ?_⟩
  · exact (hread (.raw st) i nofun).trans (read_freeStreams ..)
  · exact (hread (.out st) i nofun).trans (read_freeStreams ..)
  · exact (hread (.cdbuf d) i nofun).trans (read_freeStreams ..)
  · exact (hread .cdout i nofun).trans (read_freeStreams ..)

/-- Settles O55, field by field. -/
theorem resetSatisfiesInvariant : Obligations.ResetSatisfiesInvariant where
  cfg := by decide +kernel
  mem := reset_memory_wf
  pos := fun st => by cases st <;> decide
  count := fun st => by cases st <;> decide
  named := fun st => by cases st <;> nofun
  slots := rfl
  table := fun h => absurd rfl h
  timers := fun st => by cases st <;> rfl
  streams := nofun
  worker := ⟨rfl, .inl ⟨rfl, rfl⟩⟩
  divider := fun h => absurd rfl h
  pass := ⟨fun _ => rfl, nofun, fun h => absurd rfl h⟩
  formats := ⟨fun st => by cases st <;> rfl, rfl⟩

end Sys2Proof.Machine
end

section
/-! O60: the history after every operation and every turn ends in the history before it. -/

namespace Sys2Proof.Machine

variable {l : List Event} {s : State}

/-! The shared bodies: a list that the history ends in, it still ends in afterwards. -/

theorem Quiet.suffix {t : State} (q : Quiet s t) : s.hist <:+ t.hist := by
  obtain ⟨h, e, _⟩ := q.hist
  exact ⟨h, e.symm⟩

theorem suffix_respond (w : Word) (st : Status) (hl : l <:+ s.hist) : l <:+ (s.respond w st).hist :=
  hl.trans (List.suffix_cons ..)

theorem suffix_tickBody (st : Stream) (hl : l <:+ s.hist) : l <:+ (tickBody st s).hist := by
  obtain ⟨_, e⟩ | ⟨_, _, _, _, _, _, _, _, _, e, _⟩ := tickBody_cases st s <;> rw [e]
  · exact hl.trans (List.suffix_cons ..)
  · exact hl.trans (List.suffix_append ..)

theorem suffix_fireDue (hl : l <:+ s.hist) : l <:+ (fireDue s).hist := by
  unfold fireDue
  split
  · exact suffix_tickBody _ hl
  · exact hl

theorem suffix_startBody (w : Word) (hl : l <:+ s.hist) : l <:+ (startBody w s).hist := by
  obtain ⟨_, _, _, _, _, _, _, _, _, e, _⟩ := startBody_shape w s
  rw [e]
  exact hl.trans (List.suffix_append ..)

theorem suffix_stopBody (k : AfterStop) (w : Word) (hl : l <:+ s.hist) : l <:+ (stopBody k w s).hist := by
  obtain ⟨_, _, _, _, _, _, _, _, _, e⟩ := stopBody_shape k w s
  rw [e]
  exact hl.trans (List.suffix_append ..)

theorem suffix_checkBody (w : Word) (hl : l <:+ s.hist) : l <:+ (checkBody w s).hist := by
  have hb : l <:+ (sampleBuses s).hist := by
    obtain ⟨_, e⟩ := sampleBuses_shape s
    rw [e]
    exact hl.trans (List.suffix_append ..)
  unfold checkBody
  dsimp only
  split_ifs
  · exact suffix_startBody w hb
  · exact suffix_stopBody _ w hb
  · exact suffix_respond w _ hb

theorem suffix_resetBody (w : Word) (hl : l <:+ s.hist) : l <:+ (resetBody w s).hist := by
  unfold resetBody
  dsimp only
  split_ifs
  · exact suffix_checkBody w hl
  · exact suffix_stopBody _ w hl

theorem suffix_afterStop (k : AfterStop) (w : Word) (hl : l <:+ s.hist) : l <:+ (afterStop k w s).hist := by
  cases k <;> exact suffix_respond w _ hl

/-- What is left of a command after its wait records the events it clears and the response (R171, R172). -/
theorem suffix_resume (hl : l <:+ s.hist) : l <:+ (resume s).hist := by
  have hc : ∀ e, l <:+ e :: s.hist := fun e => hl.trans (List.suffix_cons ..)
  unfold resume
  split_ifs
  · split
    · exact hl
    · exact suffix_respond _ _ (hc .clearStart)
    · exact suffix_afterStop _ _ ((hc .clearSig).trans (List.suffix_cons Event.clearStart _))
  · exact hl

/-! The operations of R3 and the turns of the schedule (R67). -/

/-- If the operation completes, the history after it is that of `s` with events added in front (R80). -/
def Extends (s : State) (o : Out) : Prop := Leads o fun t => s.hist <:+ t.hist

theorem exec_extends (i : Instr) (s : State) : Extends s (exec i s) := by
  have refl : s.hist <:+ s.hist := List.suffix_refl _
  unfold Extends
  cases i with
  | init => simp [exec, execInit]
  | reset => simp [exec, execReset, suffix_resetBody]
  | setfmt f => simp [exec, execSetfmt, suffix_resetBody]
  | teardown => exact leads_next.2 (suffix_stopBody _ _ refl)
  | regh st cb ctx => simp [exec, execRegh]
  | tick st =>
    simp only [exec, execTick, leads_ite, leads_raiseStatus, leads_next]
    exact ⟨fun _ => suffix_respond _ _ (suffix_tickBody st refl), fun _ => suffix_respond _ _ refl⟩
  | speedchg => simp [exec, execSpeedchg]
  | setcdvol left right => simp [exec, execSetcdvol]
  | setfilt k cb ctx => simp [exec, execSetfilt]
  | cdcheck => simp [exec, execCdcheck, suffix_checkBody]
  | cdstart => exact leads_next.2 (suffix_startBody _ refl)
  | cdstop => exact leads_next.2 (suffix_stopBody _ _ refl)
  | flush st => exact leads_next.2 (flush_quiet st s).suffix
  | cdsig => exact leads_next.2 (cdSignal_quiet s).suffix
  | timeadv u => exact fun _ e => (execTimeadv_quiet e).suffix
  | wready => exact fun _ e => (execWready_quiet e).suffix
  | wwake => exact fun _ e => (execWwake_quiet e).suffix
  | wmix => exact fun _ e => (execWmix_quiet e).suffix

theorem extends_next_self (s : State) : Extends s (.next s) := leads_next.2 (List.suffix_refl _)

theorem workerTurn_extends (s : State) : Extends s (workerTurn s) := by
  unfold workerTurn
  split
  · exact exec_extends _ s
  · exact exec_extends _ s
  · exact exec_extends _ s
  · exact extends_next_self s
  · exact extends_next_self s

theorem waitTurn_extends (s : State) : Extends s (waitTurn s) := by
  unfold waitTurn
  split_ifs
  · exact leads_next.2 (suffix_resume (List.suffix_refl _))
  · exact workerTurn_extends s

theorem acceptWord_extends (w : Word) (s : State) : Extends s (acceptWord w s) := by
  unfold acceptWord
  split
  · exact exec_extends _ s
  · exact leads_raiseStatus.2 (suffix_respond w _ (List.suffix_refl _))

/-- A move of the environment records nothing. -/
theorem environmentTurn_extends (m : EnvMove) (s : State) : Extends s (environmentTurn m s) := by
  cases m with
  | now t => exact exec_extends (.timeadv t) s
  | timeHz n => simp [Extends, environmentTurn]
  | drive d x => simp [Extends, environmentTurn]
  | allocOk b => simp [Extends, environmentTurn]
  | source v => simp [Extends, environmentTurn]
  | decode r blk => simp [Extends, environmentTurn]
  | filter x => simp [Extends, environmentTurn]

theorem restTurn_extends (s : State) : Extends s (restTurn s) := by
  unfold restTurn
  split_ifs
  · exact waitTurn_extends s
  · exact workerTurn_extends s
  · exact leads_next.2 (suffix_fireDue (List.suffix_refl _))

theorem step_extends (s : State) : Extends s (step s) := by
  unfold step takeTurn
  split
  case h_1 => exact restTurn_extends s
  case h_2 w rest _ =>
    split_ifs
    · exact acceptWord_extends w { s with agenda := rest }
    · exact waitTurn_extends s
  case h_3 rest _ =>
    split_ifs
    · exact leads_next.2 (suffix_fireDue (s := { s with agenda := rest }) (List.suffix_refl _))
    · exact waitTurn_extends s
  case h_4 rest _ => exact leads_next.2 (suffix_resume (s := { s with agenda := rest }) (List.suffix_refl _))
  case h_5 rest _ => exact workerTurn_extends { s with agenda := rest }
  case h_6 m rest _ => exact environmentTurn_extends m { s with agenda := rest }

/-- Settles O60: every turn of the schedule extends the history. -/
theorem historyOnlyGrows : Obligations.HistoryOnlyGrows := by
  intro s t e
  obtain ⟨es, h⟩ := step_extends s t e
  exact ⟨es, h.symm⟩

end Sys2Proof.Machine
end

section
/-! O53: the bytes of an element, as slices of its bits. -/

namespace Sys2Proof.Machine

/-- Byte `i` of an element is its bits from `8 * i` on (R62). -/
theorem bytesOf_toNat {w : Nat} (n : Nat) (x : BitVec w) :
    bytesOf n x.toNat = (List.range n).map fun i => x.extractLsb' (8 * i) 8 := by
  simp [bytesOf, BitVec.extractLsb', Nat.shiftRight_eq_div_pow]

/-- The bytes of a buffer's first element stand before those of the rest (R62). -/
theorem bytes_int16_cons (x : I16) (xs : List I16) :
    (Block.int16 (x :: xs)).bytes = bytesOf 2 x.toNat ++ (Block.int16 xs).bytes := rfl

theorem bytes_float_cons (x : F32) (xs : List F32) :
    (Block.float (x :: xs)).bytes = bytesOf 4 x.toNat ++ (Block.float xs).bytes := rfl

/-- Settles O53: an element's two or four bytes are the slices of `bytesOf_toNat`. -/
theorem serialisedLittleEndian : Obligations.SerialisedLittleEndian := by
  refine ⟨fun x xs => ?_, fun x xs => ?_, rfl, rfl⟩
  · rw [bytes_int16_cons, bytesOf_toNat]
    rfl
  · rw [bytes_float_cons, bytesOf_toNat]
    rfl

end Sys2Proof.Machine
end

section
/-! O1 to O4. The fields of a command word (R91) determine it; under a row's mask its pattern says what the fields are
(R93); a word decodes by the one row of its operation code (R94). -/

namespace Sys2Proof

/-! ## Fields, patterns and masks -/

/-- The bits `Z` of CMD64, which no row uses (R91). -/
def zOf (w : Word) : BitVec 8 := w.extractLsb' 44 8

section Fields

variable (op : BitVec 8) (sel : BitVec 4) (cb : Cb) (arg : BitVec 32) (w : Word)

theorem zOf_pack : zOf (pack op sel cb arg) = 0 := by
  apply BitVec.eq_of_getLsbD_eq
  intro i hi
  simp only [zOf, BitVec.getLsbD_extractLsb', getLsbD_pack]
  interval_cases i <;> simp

/-- The five fields are the whole word (R91). -/
theorem fields_append : opOf w ++ selOf w ++ zOf w ++ cbOf w ++ argOf w = w := by
  simp only [opOf, selOf, zOf, cbOf, argOf, BitVec.extractLsb'_append_extractLsb'_eq_extractLsb']
  exact BitVec.extractLsb'_eq_self

/-- A word is the packed word of its fields, where `Z` is zero. -/
theorem eq_pack_iff :
    w = pack op sel cb arg ↔ opOf w = op ∧ selOf w = sel ∧ zOf w = 0 ∧ cbOf w = cb ∧ argOf w = arg := by
  constructor
  · rintro rfl
    exact ⟨opOf_pack .., selOf_pack .., zOf_pack .., cbOf_pack .., argOf_pack ..⟩
  · rintro ⟨rfl, rfl, hz, rfl, rfl⟩
    conv_lhs => rw [← fields_append w, hz]
    rfl

/-- A field of a word under a mask. -/
theorem extractLsb'_and_not (m : Word) {start len : Nat} (h : start + len ≤ 64) :
    (w &&& ~~~m).extractLsb' start len = w.extractLsb' start len &&& ~~~m.extractLsb' start len := by
  rw [BitVec.extractLsb'_and]
  congr 1
  ext i hi
  simp only [BitVec.getElem_extractLsb', BitVec.getLsbD_not, BitVec.getElem_not, Bool.and_eq_right_iff_imp,
    Bool.not_eq_eq_eq_not, Bool.not_true, decide_eq_true_eq]
  omega

/-- The masks of R93 leave out the operand bits, here `sel`, `cb` and `arg`. Under such a mask a word has the pattern of
`op` where its operation code is `op` and its other bits outside the operands are zero. -/
theorem and_mask_iff : w &&& ~~~pack 0 sel cb arg = pack op 0 0 0 ↔
    opOf w = op ∧ selOf w &&& ~~~sel = 0 ∧ zOf w = 0 ∧ cbOf w &&& ~~~cb = 0 ∧ argOf w &&& ~~~arg = 0 := by
  have hop (m : Word) : opOf (w &&& ~~~m) = opOf w &&& ~~~opOf m := extractLsb'_and_not w m (by decide)
  have hsel (m : Word) : selOf (w &&& ~~~m) = selOf w &&& ~~~selOf m := extractLsb'_and_not w m (by decide)
  have hz (m : Word) : zOf (w &&& ~~~m) = zOf w &&& ~~~zOf m := extractLsb'_and_not w m (by decide)
  have hcb (m : Word) : cbOf (w &&& ~~~m) = cbOf w &&& ~~~cbOf m := extractLsb'_and_not w m (by decide)
  have harg (m : Word) : argOf (w &&& ~~~m) = argOf w &&& ~~~argOf m := extractLsb'_and_not w m (by decide)
  have hones (x : BitVec 8) : x &&& 255#8 = x := BitVec.and_allOnes
  simp [eq_pack_iff, hones, hop, hsel, hz, hcb, harg, opOf_pack, selOf_pack, zOf_pack, cbOf_pack, argOf_pack]

end Fields

theorem streamOf_eq_some {sel : BitVec 4} {st : Stream} : streamOf sel = some st ↔ sel = st.sel := by
  cases st <;> revert sel <;> decide

theorem kindOf_eq_some {sel : BitVec 4} {k : Kind} : kindOf sel = some k ↔ sel = k.sel := by
  cases k <;> revert sel <;> decide

/-- Of the values of `SEL` under a two-bit operand, 3 alone names no stream (R92). -/
theorem streamOf_ne_none : ∀ {sel : BitVec 4}, sel &&& 12#4 = 0 → sel ≠ 3 → streamOf sel ≠ none := by decide

theorem kindOf_ne_none : ∀ {sel : BitVec 4}, sel &&& 12#4 = 0 → kindOf sel ≠ none := by decide

theorem sel_fmtOf : ∀ {sel : BitVec 4}, sel &&& 14#4 = 0 → (fmtOf sel).sel = sel := by decide

theorem Stream.sel_and (st : Stream) : st.sel &&& 12#4 = 0 := by cases st <;> decide

theorem Kind.sel_and (k : Kind) : k.sel &&& 12#4 = 0 := by cases k <;> decide

/-! ## The row a word decodes by (R94) -/

section Rows

variable {r : Row} {w : Word} {i : Instr}

/-- No two rows have the same operation code. -/
theorem find?_row (hr : r ∈ opcodeRows) (hop : r.op = opOf w) :
    opcodeRows.find? (fun r => r.op == opOf w) = some r := by
  have hnodup : (opcodeRows.map Row.op).Nodup := by decide
  obtain ⟨r', h⟩ := Option.isSome_iff_exists.1
    (List.find?_isSome (p := fun r => r.op == opOf w).2 ⟨r, hr, beq_iff_eq.2 hop⟩)
  have hop' : r'.op = opOf w := by simpa using List.find?_some h
  rw [h, List.inj_on_of_nodup_map hnodup (List.mem_of_find?_eq_some h) hr (hop'.trans hop.symm)]

theorem decode_reservedOp (h : ∀ r ∈ opcodeRows, r.op ≠ opOf w) : decode w = .illegal .reservedOp := by
  have hnone : opcodeRows.find? (fun r => r.op == opOf w) = none := by simpa using h
  simp only [decode, hnone]

theorem decode_mustBeZero (hr : r ∈ opcodeRows) (hop : r.op = opOf w) (hm : w &&& r.mask ≠ r.pat) :
    decode w = .illegal .mustBeZero := by
  simp only [decode, find?_row hr hop, if_neg hm]

theorem decode_constraint (hr : r ∈ opcodeRows) (hop : r.op = opOf w) (hm : w &&& r.mask = r.pat)
    (hb : r.build w = none) : decode w = .illegal .constraint := by
  simp only [decode, find?_row hr hop, if_pos hm, hb]

theorem decode_build (hr : r ∈ opcodeRows) (hop : r.op = opOf w) (hm : w &&& r.mask = r.pat)
    (hb : r.build w = some i) : decode w = .instr i := by
  simp only [decode, find?_row hr hop, if_pos hm, hb]

/-- A word that decodes passes the three tests of R94 in a row. -/
theorem exists_row_of_decode (h : decode w = .instr i) :
    ∃ r ∈ opcodeRows, r.op = opOf w ∧ w &&& r.mask = r.pat ∧ r.build w = some i := by
  by_cases hrow : ∃ r ∈ opcodeRows, r.op = opOf w
  · obtain ⟨r, hr, hop⟩ := hrow
    refine ⟨r, hr, hop, ?_⟩
    by_cases hm : w &&& r.mask = r.pat
    · cases hb : r.build w with
      | none => exact nomatch h.symm.trans (decode_constraint hr hop hm hb)
      | some j =>
        obtain rfl := Decoded.instr.inj (h.symm.trans (decode_build hr hop hm hb))
        exact ⟨hm, rfl⟩
    · exact nomatch h.symm.trans (decode_mustBeZero hr hop hm)
  · exact nomatch h.symm.trans (decode_reservedOp (by simpa using hrow))

/-! ## The round trip (R93, R94) -/

theorem decode_regh (st : Stream) {cb : Cb} (hcb : cb ≠ 0) (ctx : Ctx) :
    decode (pack 0x10 st.sel cb ctx) = .instr (.regh st cb ctx) := by
  refine decode_build (r := opcodeRows[4]) (List.getElem_mem _) (opOf_pack ..).symm ?_ ?_
  · refine (and_mask_iff 0x10 3 0xFFF 0xFFFFFFFF _).2 ?_
    simp [opOf_pack, selOf_pack, zOf_pack, Stream.sel_and]
  · simp [opcodeRows, selOf_pack, streamOf_sel, cbOf_pack, argOf_pack]
    exact hcb

theorem decode_setcdvol (left right : BitVec 16) :
    decode (pack 0x20 0 0 (left ++ right)) = .instr (.setcdvol left right) := by
  refine decode_build (r := opcodeRows[7]) (List.getElem_mem _) (opOf_pack ..).symm ?_ ?_
  · refine (and_mask_iff 0x20 0 0 0xFFFFFFFF _).2 ?_
    simp [opOf_pack, selOf_pack, zOf_pack, cbOf_pack]
  · simp only [opcodeRows, List.getElem_cons_succ, List.getElem_cons_zero, argOf_pack]
    rw [BitVec.extractLsb'_append_eq_left, BitVec.extractLsb'_append_eq_right]

theorem decode_setfilt (k : Kind) (cb : Cb) (ctx : Ctx) :
    decode (pack 0x21 k.sel cb ctx) = .instr (.setfilt k cb ctx) := by
  refine decode_build (r := opcodeRows[8]) (List.getElem_mem _) (opOf_pack ..).symm ?_ ?_
  · refine (and_mask_iff 0x21 3 0xFFF 0xFFFFFFFF _).2 ?_
    simp [opOf_pack, selOf_pack, zOf_pack, Kind.sel_and]
  · simp [opcodeRows, selOf_pack, kindOf_sel, cbOf_pack, argOf_pack]

/-- Settles O1: a command with a free operand field meets the tests of its row; the others are finitely many words. -/
theorem decodeInvertsEncode : Obligations.DecodeInvertsEncode := by
  intro i w hwf hw
  cases i with
  | regh st cb ctx => exact Option.some.inj hw ▸ decode_regh st (by simpa [Instr.wf] using hwf) ctx
  | setcdvol left right => exact Option.some.inj hw ▸ decode_setcdvol left right
  | setfilt k cb ctx => exact Option.some.inj hw ▸ decode_setfilt k cb ctx
  | setfmt f => cases f <;> exact Option.some.inj hw ▸ by decide
  | tick st => cases st <;> exact Option.some.inj hw ▸ by decide
  | flush _ | cdsig | timeadv _ | wready | wwake | wmix => exact nomatch hw
  | _ => exact Option.some.inj hw ▸ by decide

/-- A row with no operand has one word. -/
theorem encode_of_fixed {p : Word} {j : Instr} (he : encode j = some p) (hm : w &&& 0xFFFFFFFFFFFFFFFF = p)
    (hb : some j = some i) : encode i = some w := by
  rw [← Option.some.inj hb, he, ← hm]
  exact congrArg some BitVec.and_allOnes

/-- A field in which a row has no operand. -/
theorem eq_zero_of_and_not {n : Nat} {x : BitVec n} (h : x &&& ~~~0 = 0) : x = 0 := by simpa using h

theorem encode_of_setfmt_row (hm : w &&& 0xFFEFFFFFFFFFFFFF = 0x0300000000000000) :
    encode (.setfmt (fmtOf (selOf w))) = some w := by
  obtain ⟨ho, hs, hz, hc, ha⟩ := (and_mask_iff 0x03 1 0 0 w).1 hm
  exact congrArg some
    ((eq_pack_iff ..).2 ⟨ho, (sel_fmtOf hs).symm, hz, eq_zero_of_and_not hc, eq_zero_of_and_not ha⟩).symm

theorem encode_of_regh_row {st : Stream} (hm : w &&& 0xFFCFF00000000000 = 0x1000000000000000)
    (hst : streamOf (selOf w) = some st) : encode (.regh st (cbOf w) (argOf w)) = some w := by
  obtain ⟨ho, _, hz, _, _⟩ := (and_mask_iff 0x10 3 0xFFF 0xFFFFFFFF w).1 hm
  exact congrArg some ((eq_pack_iff ..).2 ⟨ho, streamOf_eq_some.1 hst, hz, rfl, rfl⟩).symm

theorem encode_of_tick_row {st : Stream} (hm : w &&& 0xFFCFFFFFFFFFFFFF = 0x1100000000000000)
    (hst : streamOf (selOf w) = some st) : encode (.tick st) = some w := by
  obtain ⟨ho, _, hz, hc, ha⟩ := (and_mask_iff 0x11 3 0 0 w).1 hm
  exact congrArg some
    ((eq_pack_iff ..).2 ⟨ho, streamOf_eq_some.1 hst, hz, eq_zero_of_and_not hc, eq_zero_of_and_not ha⟩).symm

theorem encode_of_setcdvol_row (hm : w &&& 0xFFFFFFFF00000000 = 0x2000000000000000) :
    encode (.setcdvol ((argOf w).extractLsb' 16 16) ((argOf w).extractLsb' 0 16)) = some w := by
  obtain ⟨ho, hs, hz, hc, _⟩ := (and_mask_iff 0x20 0 0 0xFFFFFFFF w).1 hm
  have ha : (argOf w).extractLsb' 16 16 ++ (argOf w).extractLsb' 0 16 = argOf w := by
    rw [BitVec.extractLsb'_append_extractLsb'_eq_extractLsb' (by rfl)]
    exact BitVec.extractLsb'_eq_self
  exact congrArg some ((eq_pack_iff ..).2 ⟨ho, eq_zero_of_and_not hs, hz, eq_zero_of_and_not hc, ha.symm⟩).symm

theorem encode_of_setfilt_row {k : Kind} (hm : w &&& 0xFFCFF00000000000 = 0x2100000000000000)
    (hk : kindOf (selOf w) = some k) : encode (.setfilt k (cbOf w) (argOf w)) = some w := by
  obtain ⟨ho, _, hz, _, _⟩ := (and_mask_iff 0x21 3 0xFFF 0xFFFFFFFF w).1 hm
  exact congrArg some ((eq_pack_iff ..).2 ⟨ho, kindOf_eq_some.1 hk, hz, rfl, rfl⟩).symm

/-- A word that passes the three tests in a row is the command word of what the row builds. -/
theorem encode_of_build (hr : r ∈ opcodeRows) (hm : w &&& r.mask = r.pat) (hb : r.build w = some i) :
    encode i = some w := by
  simp only [opcodeRows, List.mem_cons, List.not_mem_nil, or_false] at hr
  obtain rfl | rfl | rfl | rfl | rfl | rfl | rfl | rfl | rfl | rfl | rfl | rfl := hr
  · exact encode_of_fixed rfl hm hb
  · exact encode_of_fixed rfl hm hb
  · exact Option.some.inj hb ▸ encode_of_setfmt_row hm
  · exact encode_of_fixed rfl hm hb
  · obtain ⟨st, hst, hb⟩ := Option.bind_eq_some_iff.1 hb
    split_ifs at hb
    exact Option.some.inj hb ▸ encode_of_regh_row hm hst
  · obtain ⟨st, hst, rfl⟩ := Option.map_eq_some_iff.1 hb
    exact encode_of_tick_row hm hst
  · exact encode_of_fixed rfl hm hb
  · exact Option.some.inj hb ▸ encode_of_setcdvol_row hm
  · obtain ⟨k, hk, rfl⟩ := Option.map_eq_some_iff.1 hb
    exact encode_of_setfilt_row hm hk
  · exact encode_of_fixed rfl hm hb
  · exact encode_of_fixed rfl hm hb
  · exact encode_of_fixed rfl hm hb

/-- Settles O2: by the row the word decodes by. -/
theorem encodeInvertsDecode : Obligations.EncodeInvertsDecode := by
  intro w i h
  obtain ⟨r, hr, _, hm, hb⟩ := exists_row_of_decode h
  exact ⟨(decode_wf h).1, encode_of_build hr hm hb⟩

/-! ## The three tests (R94) -/

/-- Under a row's pattern the value constraints refuse `SEL = 3` for REGH and TICK and `CB = 0` for REGH, and nothing
else. -/
theorem build_ne_none (hr : r ∈ opcodeRows) (hm : w &&& r.mask = r.pat)
    (hregh : opOf w = 0x10 → selOf w ≠ 3 ∧ cbOf w ≠ 0) (htick : opOf w = 0x11 → selOf w ≠ 3) :
    r.build w ≠ none := by
  simp only [opcodeRows, List.mem_cons, List.not_mem_nil, or_false] at hr
  obtain rfl | rfl | rfl | rfl | rfl | rfl | rfl | rfl | rfl | rfl | rfl | rfl := hr
  · exact Option.some_ne_none _
  · exact Option.some_ne_none _
  · exact Option.some_ne_none _
  · exact Option.some_ne_none _
  · obtain ⟨ho, hs, _⟩ := (and_mask_iff 0x10 3 0xFFF 0xFFFFFFFF w).1 hm
    obtain ⟨st, hst⟩ := Option.ne_none_iff_exists'.1 (streamOf_ne_none hs (hregh ho).1)
    simp only [hst, Option.bind_some, if_neg (hregh ho).2]
    exact Option.some_ne_none _
  · obtain ⟨ho, hs, _⟩ := (and_mask_iff 0x11 3 0 0 w).1 hm
    exact mt Option.map_eq_none_iff.1 (streamOf_ne_none hs (htick ho))
  · exact Option.some_ne_none _
  · exact Option.some_ne_none _
  · obtain ⟨_, hs, _⟩ := (and_mask_iff 0x21 3 0xFFF 0xFFFFFFFF w).1 hm
    exact mt Option.map_eq_none_iff.1 (kindOf_ne_none hs)
  · exact Option.some_ne_none _
  · exact Option.some_ne_none _
  · exact Option.some_ne_none _

/-- Settles O3: each clause is the test of the row with the word's operation code. -/
theorem decodeRefusesByThreeTests : Obligations.DecodeRefusesByThreeTests := by
  intro w
  refine ⟨decode_reservedOp, fun r hr hop hm => decode_mustBeZero hr hop hm, fun hop hm hbad => ?_,
    fun hop hm hsel => ?_, fun r hr hop hm hregh htick => ?_⟩
  · refine decode_constraint (r := opcodeRows[4]) (List.getElem_mem _) hop.symm hm ?_
    obtain hsel | hcb := hbad
    · simp [opcodeRows, hsel, streamOf]
    · simp [opcodeRows, hcb]
  · refine decode_constraint (r := opcodeRows[5]) (List.getElem_mem _) hop.symm hm ?_
    simp [opcodeRows, hsel, streamOf]
  · obtain ⟨i, hb⟩ := Option.ne_none_iff_exists'.1 (build_ne_none hr hm hregh htick)
    exact ⟨i, decode_build hr hop hm hb⟩

/-- Settles O4, word by word. -/
theorem sampleWordsDecode : Obligations.SampleWordsDecode := by
  refine ⟨?_, ?_, ?_, ?_, ?_, ?_, ?_⟩ <;> decide

end Rows
end Sys2Proof
end

section
/-! O5 to O8: what each turn of the agenda runs, and what a turn leaves alone while the main path waits (R67, R90,
R155). -/

namespace Sys2Proof.Machine

variable {s : State} {rest : List Turn}

/-! ## One lemma per turn -/

theorem step_command {w : Word} (ha : s.agenda = .command w :: rest) (hm : s.main = .idle) :
    step s = acceptWord w { s with agenda := rest } := by
  simp only [step, takeTurn, ha, hm, if_true]

theorem step_worker (ha : s.agenda = .worker :: rest) : step s = workerTurn { s with agenda := rest } := by
  simp only [step, takeTurn, ha]

theorem step_env {m : EnvMove} (ha : s.agenda = .env m :: rest) :
    step s = environmentTurn m { s with agenda := rest } := by
  simp only [step, takeTurn, ha]

theorem step_of_waiting {x : Turn} (hx : (∃ w, x = .command w) ∨ x = .timer) (ha : s.agenda = x :: rest)
    (hm : s.main ≠ .idle) : step s = waitTurn s := by
  obtain ⟨w, rfl⟩ | rfl := hx <;> simp only [step, takeTurn, ha, if_neg hm]

/-! ## Commands, illegal words, and the turns that are no commands -/

/-- Settles O5: the turn accepts the word, and a word that decodes is executed. -/
theorem stepRunsDecodedCommand : Obligations.StepRunsDecodedCommand := by
  intro s w rest i ha hm hd
  rw [step_command ha hm, acceptWord, hd]

/-- Settles O7: the reserved codes are those of no row, and `raise IllegalCommand` writes `STATUS` alone. -/
theorem illegalWordsChangeOnlyStatus : Obligations.IllegalWordsChangeOnlyStatus := by
  refine ⟨fun w h => decode_reservedOp fun r hr hop => h (hop ▸ List.mem_map_of_mem (f := Row.op) hr),
    fun s w rest r ha hm hd => ?_⟩
  rw [step_command ha hm, acceptWord, hd]
  simp only [raiseStatus, State.respond, hm]

/-- Settles O6, by the turn, the worker's phase and the environment's move. -/
theorem stepRunsUnencodedOperations : Obligations.StepRunsUnencodedOperations := by
  intro s rest
  refine ⟨fun ha => ?_, fun t ha => step_env ha, fun b ha => step_env ha, fun d x ha => ?_, fun n ha => ?_,
    fun v ha => step_env ha, fun r blk ha => step_env ha, fun x ha => step_env ha⟩
  · rw [step_worker ha, workerTurn]
    refine ⟨fun hw => ?_, fun hw => ?_, fun hw => ?_, ?_⟩
    · rw [hw]
    · rw [hw]
    · rw [hw]
    · rintro (hw | hw) <;> rw [hw]
  · rw [step_env ha, environmentTurn]
    exact ⟨fun hd => if_pos hd, fun hd => if_neg (Nat.not_lt.2 hd)⟩
  · rw [step_env ha]
    have hrates : (∀ st, s.cfg.rate.get st ≤ n) ↔ _ := PerStream.forall_get (q := (· ≤ n))
    exact ⟨fun h => if_pos (hrates.1 h), fun ⟨st, h⟩ => if_neg fun hle => Nat.not_le.2 h (hrates.2 hle st)⟩

/-! ## A waiting main path -/

/-- The step leaves the agenda, the positions and the deadlines. -/
structure KeepsPlace (s t : State) : Prop where
  agenda : t.agenda = s.agenda
  pos : t.pos = s.pos
  deadline : t.deadline = s.deadline

theorem WorkerOnly.keepsPlace {t : State} (h : WorkerOnly s t) : KeepsPlace s t :=
  ⟨(congrArg State.agenda h.frame :), (congrArg State.pos h.frame :), (congrArg State.deadline h.frame :)⟩

theorem workerTurn_quiet_workerOnly {t : State} (e : workerTurn s = .next t) : Quiet s t ∧ WorkerOnly s t := by
  unfold workerTurn at e
  split at e
  · exact ⟨execWready_quiet e, execWready_workerOnly e⟩
  · exact ⟨execWwake_quiet e, execWwake_workerOnly e⟩
  · exact ⟨execWmix_quiet e, execWmix_workerOnly e⟩
  · exact Host.Outcome.next.inj e ▸ ⟨.refl s, .refl s⟩
  · exact Host.Outcome.next.inj e ▸ ⟨.refl s, .refl s⟩

/-- After a quiet step the newest event is a response only where the step recorded nothing. -/
theorem Quiet.hist_eq_of_head {t : State} (q : Quiet s t) {w : Word} {st : Status}
    (hh : t.hist.head? = some (.response w st)) : t.hist = s.hist := by
  obtain ⟨h, e, hs⟩ := q.hist
  cases h with
  | nil => exact e
  | cons x h =>
    rw [e] at hh
    exact absurd (Option.some.inj hh) (hs x (List.mem_cons_self ..) w st)

theorem KeepsPlace.refl (s : State) : KeepsPlace s s := ⟨rfl, rfl, rfl⟩

theorem afterStop_keepsPlace (k : AfterStop) (w : Word) (s : State) : KeepsPlace s (afterStop k w s) := by
  cases k <;> exact ⟨rfl, rfl, rfl⟩

theorem afterStop_head (k : AfterStop) (w : Word) (s : State) :
    ∃ st, (afterStop k w s).hist.head? = some (.response w st) := by
  cases k <;> exact ⟨_, rfl⟩

theorem resume_keepsPlace (s : State) : KeepsPlace s (resume s) := by
  unfold resume
  split_ifs
  · split
    · exact .refl s
    · exact { KeepsPlace.refl s with }
    · exact { afterStop_keepsPlace _ _ _ with }
  · exact .refl s

/-- Where the main path goes on, it answers the word it waited in. -/
theorem resume_head (hr : mainReady s = true) {w : Word} {st : Status}
    (hh : (resume s).hist.head? = some (.response w st)) :
    s.main = .awaitReady w ∨ ∃ k, s.main = .awaitExit k w := by
  rw [resume, if_pos hr] at hh
  cases hm : s.main with
  | idle => simp [mainReady, hm] at hr
  | awaitReady v =>
    rw [hm] at hh
    obtain ⟨rfl, _⟩ := Event.response.inj (Option.some.inj hh)
    exact .inl rfl
  | awaitExit k v =>
    rw [hm] at hh
    obtain ⟨_, e⟩ := afterStop_head k v (released s)
    obtain ⟨rfl, _⟩ := Event.response.inj (Option.some.inj (e.symm.trans hh))
    exact .inr ⟨k, rfl⟩

/-- Settles O8: while the main path waits, a step is its going on or a step of the worker. -/
theorem waitingMainPathTakesNoWordAndNoTick : Obligations.WaitingMainPathTakesNoWordAndNoTick := by
  intro s t x rest hx ha hm e
  rw [step_of_waiting hx ha hm, waitTurn] at e
  split_ifs at e with hr
  · obtain rfl := Host.Outcome.next.inj e
    obtain ⟨hag, hpos, hdl⟩ := resume_keepsPlace s
    exact ⟨hag, hpos, hdl, fun w st hh _ => resume_head hr hh⟩
  · obtain ⟨q, hw⟩ := workerTurn_quiet_workerOnly e
    obtain ⟨hag, hpos, hdl⟩ := hw.keepsPlace
    exact ⟨hag, hpos, hdl, fun w st hh hne => absurd (q.hist_eq_of_head hh) hne⟩

end Sys2Proof.Machine
end

section
/-! O23, O48: the expansions of PERIOD and SETFILT! (R98), run command by command. -/

namespace Sys2Proof.Machine

variable {s t : State}

theorem runAll_cons {i : Instr} (is : List Instr) (h : exec i s = .next t) : runAll (i :: is) s = runAll is t := by
  simp only [runAll, h]

/-! ## O23: PERIOD (R98, R27, R121) -/

theorem deliveries_respond (s : State) (w : Word) (c : Status) :
    deliveries (s.respond w c).hist = deliveries s.hist := by
  simp [deliveries]

theorem exec_tick (st : Stream) (hl : s.life = .active) :
    exec (.tick st) s = .next ((tickBody st s).respond (wordOf (.tick st)) .ok) := if_pos hl

/-- A tick before the period's end advances the position and delivers nothing. -/
theorem exec_tick_advances {st : Stream} (hl : s.life = .active) (hp : s.pos.get st + 1 ≠ s.cfg.bufLen.get st) :
    ∃ t, exec (.tick st) s = .next t ∧ t.life = .active ∧ t.cfg = s.cfg ∧ t.fmt = s.fmt ∧
      t.pos.get st = s.pos.get st + 1 ∧ deliveries t.hist = deliveries s.hist := by
  obtain ⟨_, e⟩ | ⟨hp', _⟩ := tickBody_cases st s
  · refine ⟨_, exec_tick st hl, ?_⟩
    rw [e, deliveries_respond]
    exact ⟨hl, rfl, rfl, PerStream.get_set_same .., rfl⟩
  · exact absurd hp' hp

/-- The tick at the period's end delivers one buffer of the stream's size and format. -/
theorem tickBody_delivers {st : Stream} (hp : s.pos.get st + 1 = s.cfg.bufLen.get st) :
    (tickBody st s).pos.get st = 0 ∧ ∃ b, deliveries (tickBody st s).hist = deliveries s.hist ++ [(st.kind, b)] ∧
      b.length = streamSize s st ∧ b.fmt = s.fmt := by
  let u := { s with pos := s.pos.set st (s.pos.get st + 1) }.record (.tick st)
  have e : tickBody st s = { flush st u with pos := (flush st u).pos.set st 0 } := if_pos hp
  obtain ⟨h, _, eh, _, hd, _⟩ := flush_hist st u
  obtain ⟨_, b, _, _, _, _, _, _, ef, _, hlen, hfmt, _⟩ := flush_shape st u
  have hb : (flush st u).mem.out.get st = b := by
    rw [ef]
    simp
  rw [hb] at hd
  rw [e]
  refine ⟨PerStream.get_set_same .., b, ?_, hlen, hfmt⟩
  change deliveries (flush st u).hist = _
  rw [eh, deliveries_append, hd]
  rfl

/-- From `n` ticks before the period's end, `n` ticks reach it with one delivery. -/
theorem runAll_ticks (st : Stream) (n : Nat) : ∀ s : State, s.life = .active →
    s.pos.get st + (n + 1) = s.cfg.bufLen.get st →
    ∃ t b, runAll (List.replicate (n + 1) (.tick st)) s = .next t ∧ t.pos.get st = 0 ∧
      deliveries t.hist = deliveries s.hist ++ [(st.kind, b)] ∧ b.length = streamSize s st ∧ b.fmt = s.fmt := by
  induction n with
  | zero =>
    intro s hl hp
    obtain ⟨hpos, b, hd, hb⟩ := tickBody_delivers hp
    exact ⟨_, b, runAll_cons [] (exec_tick st hl), hpos, (deliveries_respond ..).trans hd, hb⟩
  | succ n ih =>
    intro s hl hp
    obtain ⟨u, eu, hul, hcfg, hfmt, hpos, hdel⟩ := exec_tick_advances (st := st) hl (by omega)
    obtain ⟨t, b, et, hend, hd, hlen, hb⟩ := ih u hul (by rw [hpos, hcfg]; omega)
    refine ⟨t, b, (runAll_cons _ eu).trans et, hend, by rw [hd, hdel], ?_, hb.trans hfmt⟩
    rw [hlen, streamSize, hcfg, streamSize]

/-- Settles O23: PERIOD is as many ticks as the stream is away from the end of its period. -/
theorem periodRunsToOneFlush : Obligations.PeriodRunsToOneFlush := by
  intro s st hl hp
  obtain ⟨n, hn⟩ := Nat.exists_eq_add_of_lt hp
  have hticks : Pseudo.expand s (.period st) = List.replicate (n + 1) (.tick st) :=
    congrArg (List.replicate · (Instr.tick st)) (by omega)
  rw [hticks]
  exact runAll_ticks st n s hl (by omega)

/-! ## O48: SETFILT! (R98, R215, R287) -/

theorem exec_setfilt_null (k : Kind) (ctx : Ctx) (hl : s.life ≠ .uninit) : exec (.setfilt k 0 ctx) s =
    .next ({ s with filt := s.filt.set k Slot.empty }.respond (wordOf (.setfilt k 0 ctx)) .ok) := by
  rw [exec, execSetfilt, if_neg hl, if_pos rfl]

theorem exec_setfilt_install {k : Kind} {cb : Cb} (ctx : Ctx) (hl : s.life ≠ .uninit) (hcb : cb ≠ 0)
    (hk : (s.filt.get k).cb = 0) : exec (.setfilt k cb ctx) s =
    .next ({ s with filt := s.filt.set k ⟨cb, ctx⟩ }.respond (wordOf (.setfilt k cb ctx)) .ok) := by
  rw [exec, execSetfilt, if_neg hl, if_neg hcb, if_pos hk]

/-- Settles O48: the first command empties the slot, the second installs the filter. -/
theorem replacingAFilterTakesTwoCommands : Obligations.ReplacingAFilterTakesTwoCommands := by
  intro s k cb ctx hl hcb
  refine ⟨_, (runAll_cons _ (exec_setfilt_null k 0 hl)).trans
    (runAll_cons [] (exec_setfilt_install ctx hl hcb ?_)), ?_, fun k' hk => ?_, rfl⟩
  · simp [Slot.empty]
  · simp
  · simp [PerKind.get_set_ne _ _ hk]

end Sys2Proof.Machine
end

section
/-! O18 to O22: the handler registry, TICK, and what a flush sums, converts and leaves alone (R120 to R126). -/

namespace Sys2Proof

@[simp] theorem PerStream.set_set {α : Type} (p : PerStream α) (st : Stream) (v w : α) :
    (p.set st v).set st w = p.set st w := by
  cases st <;> rfl

namespace Machine

variable {s : State} {st : Stream}

/-! ## Vectors of contributions added one after another (R123, R125) -/

/-- Some addition overflows when the vectors `vs` are added to the accumulator `r` one after another (R125). -/
def sumOverflows : List I32 → List (List I32) → Bool
  | _, [] => false
  | r, v :: vs => addAllOverflows r v || sumOverflows (addAll r v) vs

/-- Every element is in `-b .. b`. -/
def Bounded (b : Int) (r : List I32) : Prop := ∀ x ∈ r, -b ≤ x.toInt ∧ x.toInt ≤ b

theorem exactSum_cons (v : List I32) (vs : List (List I32)) (i : Nat) :
    exactSum (v :: vs) i = (v.getD i 0).toInt + exactSum vs i := rfl

theorem addAllOverflows_eq_false {r v : List I32} : addAllOverflows r v = false ↔
    ∀ (i : Nat) (x y : I32), r[i]? = some x → v[i]? = some y → add32Overflows x y = false := by
  simp only [addAllOverflows, List.any_eq_false, id, Bool.not_eq_true, List.mem_iff_getElem?,
    List.getElem?_zipWith_eq_some]
  exact ⟨fun h i x y hx hy => h _ ⟨i, x, y, hx, hy, rfl⟩, fun h _ ⟨i, x, y, hx, hy, e⟩ => e ▸ h i x y hx hy⟩

theorem add32_toInt_exact {a b : I32} (h : add32Overflows a b = false) : (add32 a b).toInt = a.toInt + b.toInt := by
  obtain ⟨c, hc, hov⟩ := add32_toInt a b
  rw [hc, hov.1 h]
  omega

/-- While no addition overflows, each element of the accumulator grows by the exact sum (R123). -/
theorem foldl_addAll_exact {n i : Nat} (hi : i < n) (vs : List (List I32)) : ∀ (r : List I32) (x : I32),
    (∀ v ∈ vs, v.length = n) → sumOverflows r vs = false → r[i]? = some x →
    ∃ y : I32, (vs.foldl addAll r)[i]? = some y ∧ y.toInt = x.toInt + exactSum vs i := by
  induction vs with
  | nil => exact fun r x _ _ hx => ⟨x, hx, (add_zero _).symm⟩
  | cons v vs ih =>
    intro r x hv ho hx
    obtain ⟨hov, hovs⟩ := Bool.or_eq_false_iff.1 ho
    obtain ⟨c, hc⟩ : ∃ c, v[i]? = some c := ⟨_, List.getElem?_eq_getElem (by rw [hv v (by simp)]; exact hi)⟩
    obtain ⟨y, hy, hsum⟩ := ih (addAll r v) (add32 x c) (fun u hu => hv u (by simp [hu])) hovs
      (List.getElem?_zipWith_eq_some.2 ⟨x, c, hx, hc, rfl⟩)
    refine ⟨y, hy, ?_⟩
    rw [hsum, add32_toInt_exact (addAllOverflows_eq_false.1 hov i x c hx hc), exactSum_cons,
      List.getD_eq_getElem?_getD, hc, Option.getD_some, add_assoc]

/-- Bounds whose sum is in `int32` add up without overflow. -/
theorem Bounded.addAll {b c : Int} {r v : List I32} (hr : Bounded b r) (hv : Bounded c v) (hbc : b + c < 2 ^ 31) :
    addAllOverflows r v = false ∧ Bounded (b + c) (addAll r v) := by
  have key : ∀ (i : Nat) (x y : I32), r[i]? = some x → v[i]? = some y →
      -(b + c) ≤ x.toInt + y.toInt ∧ x.toInt + y.toInt ≤ b + c ∧ add32Overflows x y = false := by
    intro i x y hx hy
    obtain ⟨hxl, hxu⟩ := hr x (List.mem_of_getElem? hx)
    obtain ⟨hyl, hyu⟩ := hv y (List.mem_of_getElem? hy)
    simp only [add32Overflows, Bool.or_eq_false_iff, decide_eq_false_iff_not]
    omega
  refine ⟨addAllOverflows_eq_false.2 fun i x y hx hy => (key i x y hx hy).2.2, fun z hz => ?_⟩
  obtain ⟨i, hz⟩ := List.mem_iff_getElem?.1 hz
  obtain ⟨x, y, hx, hy, rfl⟩ := List.getElem?_zipWith_eq_some.1 hz
  obtain ⟨hlo, hhi, ho⟩ := key i x y hx hy
  rw [add32_toInt_exact ho]
  exact ⟨hlo, hhi⟩

/-- The sizing remark of R123 and R125: the bounds of the sources add up. -/
theorem sumOverflows_of_bounded {c : Int} (hc : 0 ≤ c) (vs : List (List I32)) : ∀ (r : List I32) (b : Int),
    Bounded b r → (∀ v ∈ vs, Bounded c v) → b + c * vs.length < 2 ^ 31 → sumOverflows r vs = false := by
  induction vs with
  | nil => exact fun _ _ _ _ _ => rfl
  | cons v vs ih =>
    intro r b hr hv hb
    have hrest : 0 ≤ c * (vs.length : Int) := Int.mul_nonneg hc (Int.natCast_nonneg _)
    rw [List.length_cons, Nat.cast_succ, mul_add, mul_one] at hb
    obtain ⟨hov, hr'⟩ := hr.addAll (hv v (by simp)) (by omega)
    rw [sumOverflows, hov, Bool.false_or]
    exact ih _ _ hr' (fun u hu => hv u (by simp [hu])) (by omega)

/-! ## The steps of a flush with scripted sources (R122 to R124) -/

/-- Step 2 of FLUSH with its handlers answering the vectors `vs`: they are added to the accumulator in order. -/
theorem foldl_addSource_sums (st : Stream) (more : List (List I32)) (hs : List Slot) :
    ∀ (s : State) (vs : List (List I32)), vs.length = hs.length → (∀ v ∈ vs, v.length = streamSize s st) →
    s.answers.source = vs ++ more →
    (hs.foldl (addSource st) s).mem.raw.get st = vs.foldl addAll (s.mem.raw.get st) ∧
    (hs.foldl (addSource st) s).accOvf = (s.accOvf || sumOverflows (s.mem.raw.get st) vs) ∧
    (hs.foldl (addSource st) s).answers.source = more := by
  induction hs with
  | nil =>
    intro s vs hl _ ha
    obtain rfl := List.length_eq_zero_iff.1 hl
    exact ⟨rfl, (Bool.or_false _).symm, ha⟩
  | cons h hs ih =>
    intro s vs hl hv ha
    obtain ⟨v, vs, rfl⟩ := List.exists_cons_of_length_eq_add_one hl
    have hans : s.sourceAnswer (s.cfg.bufLen.get st) = v := by
      unfold State.sourceAnswer
      rw [ha]
      exact if_pos (hv v (by simp))
    obtain ⟨hraw, hovf, hmore⟩ := ih (addSource st s h) vs (by simpa using hl) (fun u hu => hv u (by simp [hu]))
      (by simp [addSource, ha])
    rw [List.foldl_cons, hraw, hovf, hmore]
    simp [addSource, hans, sumOverflows, Bool.or_assoc]

/-- The conversion step writes no field but the buffers. -/
theorem convert_shape (st : Stream) (s : State) : ∃ m, convert st s = { s with mem := m } := by
  cases hf : s.fmt <;> simp only [convert, hf]
  · exact ⟨_, rfl⟩
  · exact ⟨_, rfl⟩

/-- FLUSH ends with its delivery, or for EFFECTS with CDSIG (R122). -/
theorem flush_cases (st : Stream) (s : State) :
    flush st s = deliverStream st (convert st (addSources st (clearRaw st s))) ∨
    flush st s = cdSignal (deliverStream st (convert st (addSources st (clearRaw st s)))) := by
  cases st with
  | effects => exact .inr rfl
  | music => exact .inl rfl
  | wavetable => exact .inl rfl

/-- After its sources a flush writes neither the flag nor the answers, calls no oracle, and leaves the buffers as the
conversion does. -/
theorem flush_after_sources (st : Stream) (s : State) {u : State} (hu : addSources st (clearRaw st s) = u) :
    (flush st s).mem = (convert st u).mem ∧ (flush st s).accOvf = u.accOvf ∧ (flush st s).answers = u.answers ∧
    oracleCalls (flush st s).hist = oracleCalls u.hist := by
  obtain ⟨m, hm⟩ := convert_shape st u
  obtain hflush | hflush := flush_cases st s <;> rw [hu] at hflush
  · rw [hflush, hm]
    exact ⟨rfl, rfl, rfl, rfl⟩
  · obtain ⟨_, _, _, _, hsig, _⟩ := cdSignal_shape (deliverStream st (convert st u))
    obtain ⟨_, hhist, _, _, hcalls⟩ := cdSignal_hist (deliverStream st (convert st u))
    rw [hflush, hhist, oracleCalls_append, hcalls, List.append_nil, hsig, hm]
    exact ⟨rfl, rfl, rfl, rfl⟩

/-- Step 3 of FLUSH in integer mode (R124): the accumulator itself ends clamped. -/
theorem convert_read_int16 (hf : s.fmt = .int16) {i : Nat} {x : I32} (hx : (s.mem.raw.get st)[i]? = some x) :
    (convert st s).mem.read (.raw st) i = some (.int32 (clampRaw x)) ∧
    (convert st s).mem.read (.out st) i = some (.int16 (narrow (clampRaw x))) := by
  simp [convert, hf, Memory.read, Block.read, hx]

/-- Step 3 of FLUSH in float mode (R124, R212): the accumulator stays. -/
theorem convert_read_float (hf : s.fmt = .float) {i : Nat} {x : I32} (hx : (s.mem.raw.get st)[i]? = some x) :
    (convert st s).mem.read (.raw st) i = some (.int32 x) ∧
    (convert st s).mem.read (.out st) i = some (.f32 (Num.i2f s.cfg.num x)) := by
  simp [convert, hf, Memory.read, Block.read, hx]

theorem oracleCalls_reverse_sourceCalls (n : Nat) (hs : List Slot) (vs : List (List I32)) :
    oracleCalls (sourceCalls n hs vs).reverse = sourceCalls n hs vs := by
  rw [oracleCalls, List.filter_reverse, List.reverse_reverse, List.filter_eq_self]
  intro e he
  obtain ⟨i, he⟩ := List.mem_iff_getElem?.1 he
  obtain ⟨h, v, _, _, rfl⟩ := List.getElem?_zipWith_eq_some.1 he
  rfl

section Scripted

variable {vs more : List (List I32)} (hcount : vs.length = (s.handlers.get st).length)
  (hsize : ∀ v ∈ vs, v.length = streamSize s st) (hsource : s.answers.source = vs ++ more)
include hcount hsize hsource

theorem flush_scripted_calls : oracleCalls (flush st s).hist =
    oracleCalls s.hist ++ sourceCalls (s.cfg.bufLen.get st) (s.handlers.get st) vs := by
  obtain ⟨_, _, _, hcalls⟩ := flush_after_sources st s rfl
  have hhist : (addSources st (clearRaw st s)).hist = _ :=
    foldl_addSource_scripted st more (s.handlers.get st) (clearRaw st s) vs hcount hsize hsource
  rw [hcalls, hhist, oracleCalls_append, oracleCalls_reverse_sourceCalls]
  rfl

/-- The vectors are added to an accumulator of zeros, and no other addition touches the flag. -/
theorem addSources_scripted : ∃ u, addSources st (clearRaw st s) = u ∧ u.cfg = s.cfg ∧ u.fmt = s.fmt ∧
    u.mem.raw.get st = vs.foldl addAll (List.replicate (streamSize s st) 0) ∧
    u.accOvf = (s.accOvf || sumOverflows (List.replicate (streamSize s st) 0) vs) ∧ u.answers.source = more := by
  have hzero : (clearRaw st s).mem.raw.get st = List.replicate (streamSize s st) 0 := by simp [clearRaw]
  have hsums := foldl_addSource_sums st more (s.handlers.get st) (clearRaw st s) vs hcount hsize hsource
  obtain ⟨_, _, _, _, _, hshape, _⟩ := foldl_addSource_shape st (s.handlers.get st) (clearRaw st s)
    (by rw [hzero, List.length_replicate]; rfl)
  change addSources st (clearRaw st s) = _ at hshape
  rw [hzero] at hsums
  exact ⟨_, rfl, by rw [hshape]; rfl, by rw [hshape]; rfl, hsums⟩

theorem flush_scripted_accOvf :
    (flush st s).accOvf = (s.accOvf || sumOverflows (List.replicate (streamSize s st) 0) vs) := by
  obtain ⟨u, hu, _, _, _, hov, _⟩ := addSources_scripted hcount hsize hsource
  obtain ⟨_, hflag, _⟩ := flush_after_sources st s hu
  rw [hflag, hov]

theorem flush_scripted_source : (flush st s).answers.source = more := by
  obtain ⟨u, hu, _, _, _, _, hmore⟩ := addSources_scripted hcount hsize hsource
  obtain ⟨_, _, hans, _⟩ := flush_after_sources st s hu
  rw [hans, hmore]

/-- A flush that ends with the flag clear converts the exact sums (R123, R124). -/
theorem flush_scripted_sums (hov : (flush st s).accOvf = false) {i : Nat} (hi : i < streamSize s st) :
    ∃ u y, (flush st s).mem = (convert st u).mem ∧ u.cfg = s.cfg ∧ u.fmt = s.fmt ∧
      (u.mem.raw.get st)[i]? = some y ∧ y.toInt = exactSum vs i := by
  obtain ⟨u, hu, hcfg, hfmt, hraw, _⟩ := addSources_scripted hcount hsize hsource
  obtain ⟨hmem, _⟩ := flush_after_sources st s hu
  rw [flush_scripted_accOvf hcount hsize hsource, Bool.or_eq_false_iff] at hov
  obtain ⟨y, hy, hsum⟩ := foldl_addAll_exact hi vs _ 0 hsize hov.2 (List.getElem?_replicate_of_lt hi)
  exact ⟨u, y, hmem, hcfg, hfmt, hraw ▸ hy, hsum.trans (zero_add _)⟩

end Scripted

theorem flush_deliveries (st : Stream) (s : State) :
    deliveries (flush st s).hist = deliveries s.hist ++ [(st.kind, (flush st s).mem.out.get st)] := by
  obtain ⟨_, _, eh, _, hd, _⟩ := flush_hist st s
  rw [eh, deliveries_append, hd]

/-! ## O20 to O22: FLUSH -/

/-- Settles O20: an accumulator of zeros takes the vectors without overflow, so that the exact sums are converted. -/
theorem flushDeliversExactSums : Obligations.FlushDeliversExactSums := by
  intro s st vs more hcount hsize hsource
  refine ⟨flush st s, rfl, flush_scripted_calls hcount hsize hsource, flush_deliveries st s,
    flush_scripted_source hcount hsize hsource, fun hov i hi => ?_⟩
  obtain ⟨u, y, hmem, hcfg, hfmt, hy, hsum⟩ := flush_scripted_sums hcount hsize hsource hov hi
  rw [hmem, ← hcfg, ← hsum, ← hfmt]
  cases hf : u.fmt with
  | int16 =>
    obtain ⟨hraw, hout⟩ := convert_read_int16 hf hy
    exact ⟨_, hraw, Num.toInt_ofInt_clamp16 (by decide) _, by rw [hout, clampRaw, narrow_ofInt]⟩
  | float =>
    obtain ⟨hraw, hout⟩ := convert_read_float hf hy
    exact ⟨y, hraw, rfl, hout⟩

/-- Settles O21: eight bounds of `2^15` add up to less than `2^31`. -/
theorem eightSixteenBitSourcesNeverOverflow : Obligations.EightSixteenBitSourcesNeverOverflow := by
  intro s st vs more hcount hsize hsource hle hrange hov
  have hzeros : Bounded 0 (List.replicate (streamSize s st) 0) := fun x hx => by simp [List.eq_of_mem_replicate hx]
  have hbounded : ∀ v ∈ vs, Bounded 32768 v := fun v hv x hx => by have := hrange v hv x hx; omega
  refine ⟨flush st s, rfl, ?_⟩
  rw [flush_scripted_accOvf hcount hsize hsource, hov, Bool.false_or]
  exact sumOverflows_of_bounded (by decide) vs _ 0 hzeros hbounded (by omega)

/-- Settles O22: the calls are those of `flush_hist`, the fields written those of `flush_shape`. -/
theorem flushTouchesOneStream : Obligations.FlushTouchesOneStream := by
  intro s st
  obtain ⟨h, vs, hhist, _, _, hcount, hsize, hcalls⟩ := flush_hist st s
  obtain ⟨r, b, v, d, g, a, n, h', hshape, hr, hb, hfmt, _, _, hsig, _⟩ := flush_shape st s
  refine ⟨flush st s, rfl, ⟨vs, hcount, hsize, by rw [hhist, oracleCalls_append, hcalls]; rfl⟩, ?_⟩
  rw [hshape]
  refine ⟨fun sp i hraw hout => ?_, fun hst => hsig (.inr hst), ?_, ?_, ?_, rfl, rfl, rfl⟩
  · rw [read_putOut_other _ _ _ _ hout, read_putRaw_other _ _ _ _ hraw]
  · simpa using hr
  · simpa using hb
  · simpa using hfmt

/-! ## O18: REGH (R120, R252) -/

/-- Settles O18: one clause per branch of the command. -/
theorem registerAppendsUpToEight : Obligations.RegisterAppendsUpToEight := by
  intro s st cb ctx
  refine ⟨fun hl => if_neg hl, fun hl hn => ?_, fun hl hn => (if_pos hl).trans (if_pos hn)⟩
  exact ⟨_, (if_pos hl).trans (if_neg hn), PerStream.get_set_same .., fun st' hne => PerStream.get_set_ne _ _ hne, rfl, rfl,
    rfl, rfl⟩

/-! ## O19: TICK (R121) -/

@[simp] theorem flush_pos (st : Stream) (s : State) : (flush st s).pos = s.pos := by
  obtain ⟨_, _, _, _, _, _, _, _, e, _⟩ := flush_shape st s
  rw [e]

/-- At the period's end the flush sees the full position, and its stream's position wraps to 0. -/
theorem tickBody_eq_flush (hp : s.pos.get st + 1 = s.cfg.bufLen.get st) : tickBody st s =
    { flush st { s with pos := s.pos.set st (s.cfg.bufLen.get st), hist := .tick st :: s.hist } with
      pos := s.pos.set st 0 } := by
  simp only [tickBody, hp, if_true, State.record, flush_pos, PerStream.set_set]

/-- Settles O19: the two forms of the tick's body, answered. -/
theorem tickAdvancesOrFlushes : Obligations.TickAdvancesOrFlushes := by
  intro s st hl
  rw [exec_tick st hl]
  refine ⟨fun hp => ?_, fun hp => ?_⟩
  · obtain ⟨_, e⟩ | ⟨hp', _⟩ := tickBody_cases st s
    · rw [e]
      rfl
    · exact absurd hp' hp
  · exact ⟨_, rfl, by rw [tickBody_eq_flush hp]; rfl⟩

end Machine
end Sys2Proof
end

section
/-! O24 to O28: SPEEDCHG, TIMEADV, and which due stream fires and what its tick does (R150 to R154). -/

namespace Sys2Proof

theorem Stream.sel_lt (st : Stream) : st.sel.toNat < 3 := by cases st <;> decide

theorem Stream.eq_of_sel {st st' : Stream} (h : st.sel.toNat = st'.sel.toNat) : st = st' := by
  have hs : streamOf st.sel = streamOf st'.sel := congrArg streamOf (BitVec.eq_of_toNat_eq h)
  rwa [streamOf_sel, streamOf_sel, Option.some_inj] at hs

namespace Machine

variable {s : State} {st : Stream}

/-! ## O26: the due stream that fires (R153, R154) -/

/-- The tick of `a` fires no later than that of `b`: the lesser deadline, on equal deadlines the lower index (R154). -/
def Precedes (s : State) (a b : Stream) : Prop :=
  (s.deadline.get a).toNat < (s.deadline.get b).toNat ∨
  (s.deadline.get a).toNat = (s.deadline.get b).toNat ∧ a.sel.toNat ≤ b.sel.toNat

theorem Precedes.refl (s : State) (a : Stream) : Precedes s a a := .inr ⟨rfl, le_rfl⟩

theorem Precedes.trans {a b c : Stream} (hab : Precedes s a b) (hbc : Precedes s b c) : Precedes s a c := by
  unfold Precedes at *
  omega

theorem Precedes.antisymm {a b : Stream} (hab : Precedes s a b) (hba : Precedes s b a) : a = b := by
  unfold Precedes at hab hba
  exact Stream.eq_of_sel (by omega)

/-- Of the streams of an index below `n`, `o` is the due one that fires first, or none where none is due. -/
structure FirstBelow (s : State) (n : Nat) (o : Option Stream) : Prop where
  isDue : ∀ b, o = some b → due s b = true ∧ b.sel.toNat < n
  precedes : ∀ st, st.sel.toNat < n → due s st = true → ∃ b, o = some b ∧ Precedes s b st

/-- What is due and precedes both the choice so far and one more stream, where that is due, is the next choice. -/
theorem FirstBelow.extend {o o' : Option Stream} (h : FirstBelow s st.sel.toNat o)
    (hdue : ∀ c, o' = some c → due s c = true ∧ c.sel.toNat < st.sel.toNat + 1)
    (hnew : due s st = true → ∃ c, o' = some c ∧ Precedes s c st)
    (hold : ∀ b, o = some b → ∃ c, o' = some c ∧ Precedes s c b) : FirstBelow s (st.sel.toNat + 1) o' := by
  refine ⟨hdue, fun st' hlt hd => ?_⟩
  obtain hlt | hsel := Nat.lt_succ_iff_lt_or_eq.1 hlt
  · obtain ⟨b, hb, hbst⟩ := h.precedes st' hlt hd
    obtain ⟨c, hc, hcb⟩ := hold b hb
    exact ⟨c, hc, hcb.trans hbst⟩
  · obtain rfl := Stream.eq_of_sel hsel
    exact hnew hd

/-- Comparing with one more stream takes the choice from the indices below its index to those up to it. -/
theorem FirstBelow.firstDue {o : Option Stream} (h : FirstBelow s st.sel.toNat o) :
    FirstBelow s (st.sel.toNat + 1) (firstDue s o st) := by
  unfold Machine.firstDue
  split_ifs with hd
  · have hst : ∀ c, some st = some c → due s c = true ∧ c.sel.toNat < st.sel.toNat + 1 :=
      fun c e => Option.some.inj e ▸ ⟨hd, Nat.lt_succ_self _⟩
    cases o with
    | none => exact h.extend hst (fun _ => ⟨st, rfl, .refl s st⟩) fun _ e => nomatch e
    | some b =>
      obtain ⟨hb, hlt⟩ := h.isDue b rfl
      dsimp only
      split_ifs with hless
      · exact h.extend hst (fun _ => ⟨st, rfl, .refl s st⟩) fun c e => ⟨st, rfl, Option.some.inj e ▸ .inl hless⟩
      · have hprec : Precedes s b st := by
          unfold Precedes
          omega
        exact h.extend (fun c e => Option.some.inj e ▸ ⟨hb, hlt.trans (Nat.lt_succ_self _)⟩)
          (fun _ => ⟨b, rfl, hprec⟩) fun c e => ⟨c, e, .refl s c⟩
  · exact h.extend (fun c e => (h.isDue c e).imp_right Nat.lt_succ_of_lt) (fun hd' => absurd hd' hd)
      fun b e => ⟨b, e, .refl s b⟩

/-- The three comparisons, in the order of the indices. -/
theorem nextDue_firstBelow (s : State) : FirstBelow s 3 (nextDue s) := by
  have h0 : FirstBelow s Stream.effects.sel.toNat none :=
    ⟨fun _ e => (nomatch e), fun _ hlt => absurd hlt (Nat.not_lt_zero _)⟩
  have h1 : FirstBelow s Stream.music.sel.toNat _ := h0.firstDue
  have h2 : FirstBelow s Stream.wavetable.sel.toNat _ := h1.firstDue
  exact h2.firstDue

/-- Settles O26: the choice precedes every due stream, and two streams that precede each other are one. -/
theorem earliestDueStreamFires : Obligations.EarliestDueStreamFires := by
  intro s
  obtain ⟨hdue, hprec⟩ := nextDue_firstBelow s
  refine ⟨fun st => ⟨fun e => ⟨(hdue st e).1, fun st' hd => ?_⟩, fun ⟨hd, hmin⟩ => ?_⟩,
    fun e st => ?_, fun hnone => ?_⟩
  · obtain ⟨b, hb, hp⟩ := hprec st' st'.sel_lt hd
    obtain rfl := Option.some.inj (hb.symm.trans e)
    exact hp
  · obtain ⟨b, hb, hp⟩ := hprec st st.sel_lt hd
    rw [hb, hp.antisymm (hmin b (hdue b hb).1)]
  · by_contra hd
    obtain ⟨b, hb, _⟩ := hprec st st.sel_lt (Bool.not_eq_false _ ▸ hd)
    exact nomatch e.symm.trans hb
  · refine Option.eq_none_iff_forall_ne_some.2 fun b hb => ?_
    exact absurd (hdue b hb).1 (by simp [hnone b])

/-! ## A fired tick (R153, R121) -/

/-- A sum that stays in 64 bits is the exact one (R153). -/
theorem laterBy_toNat {t latch : Time} (h : t.toNat + latch.toNat < 2 ^ 64) (draw : Nat) :
    (laterBy t latch draw).toNat = t.toNat + latch.toNat := by
  rw [laterBy, if_neg (Nat.not_le.2 h), BitVec.toNat_add_of_lt h]

@[simp] theorem tickBody_deadline (st : Stream) (s : State) : (tickBody st s).deadline = s.deadline := by
  obtain ⟨_, e⟩ | ⟨_, _, _, _, _, _, _, _, _, e, _⟩ := tickBody_cases st s <;> rw [e]

@[simp] theorem tickBody_latch (st : Stream) (s : State) : (tickBody st s).latch = s.latch := by
  obtain ⟨_, e⟩ | ⟨_, _, _, _, _, _, _, _, _, e, _⟩ := tickBody_cases st s <;> rw [e]

theorem fireTick_deadline (st : Stream) (s : State) : (fireTick st s).deadline =
    s.deadline.set st (laterBy (s.deadline.get st) (s.latch.get st) s.draws) := tickBody_deadline ..

@[simp] theorem fireTick_latch (st : Stream) (s : State) : (fireTick st s).latch = s.latch := tickBody_latch ..

theorem fireTick_deadline_toNat (h : (s.deadline.get st).toNat + (s.latch.get st).toNat < 2 ^ 64) :
    ((fireTick st s).deadline.get st).toNat = (s.deadline.get st).toNat + (s.latch.get st).toNat := by
  rw [fireTick_deadline, PerStream.get_set_same, laterBy_toNat h]

/-- The body of a tick records itself and what a flush records, no response. -/
theorem tickBody_quiet (st : Stream) (s : State) : Quiet s (tickBody st s) := by
  by_cases hp : s.pos.get st + 1 = s.cfg.bufLen.get st
  · rw [tickBody_eq_flush hp]
    obtain ⟨hstatus, hlife, h, hhist, hs⟩ :=
      flush_quiet st { s with pos := s.pos.set st (s.cfg.bufLen.get st), hist := .tick st :: s.hist }
    exact ⟨hstatus, hlife, h ++ [.tick st], by simpa using hhist, hs.append (by simp [Silent])⟩
  · obtain ⟨_, e⟩ | ⟨hp', _⟩ := tickBody_cases st s
    · rw [e]
      exact ⟨rfl, rfl, [.tick st], rfl, by simp [Silent]⟩
    · exact absurd hp' hp

theorem fireTick_quiet (st : Stream) (s : State) : Quiet s (fireTick st s) :=
  { tickBody_quiet st _ with }

theorem Quiet.responses {t : State} (q : Quiet s t) : responses t.hist = responses s.hist := by
  obtain ⟨h, e, hs⟩ := q.hist
  rw [e, responses_append, hs.responses, List.nil_append]

/-! ## O27: a timer turn -/

theorem fireDue_of_nextDue (hd : nextDue s = some st) : fireDue s = fireTick st s := by
  simp only [fireDue, hd]

theorem step_timer {rest : List Turn} (ha : s.agenda = .timer :: rest) (hm : s.main = .idle) :
    step s = .next (fireDue { s with agenda := rest }) := by
  simp only [step, takeTurn, ha, hm, if_true]

/-- Settles O27: the deadline is that of `fireTick_deadline`, the rest the two cases of the tick's body. -/
theorem timerTurnFiresOneTick : Obligations.TimerTurnFiresOneTick := by
  intro s rest st ha hm hd hfit
  let u : State := { s with agenda := rest }
  have q := fireTick_quiet st u
  have hstep : step s = .next (fireTick st u) := by
    rw [step_timer ha hm, fireDue_of_nextDue (s := u) hd]
  refine ⟨fireTick st u, s.draws + 1, hstep, fireTick_deadline_toNat hfit, fun st' hne => ?_,
    fun hp => ?_, fun hp => ?_, q.status, q.responses⟩
  · rw [fireTick_deadline, PerStream.get_set_ne _ _ hne]
  · obtain ⟨_, e⟩ | ⟨hp', _⟩ := tickBody_cases st
      { u with deadline := (fireTick st u).deadline, draws := s.draws + 1 }
    · rw [← e, fireTick_deadline]
      rfl
    · exact absurd hp' hp
  · refine ⟨_, rfl, ?_⟩
    rw [fireTick_deadline]
    exact tickBody_eq_flush hp

/-! ## O28: no drift -/

/-- Settles O28, by induction on the number of ticks: the first takes one latch, and the latch stays. -/
theorem deadlinesDoNotDrift : Obligations.DeadlinesDoNotDrift := by
  intro n
  induction n with
  | zero => exact fun s st _ => by simp
  | succ n ih =>
    intro s st hfit
    rw [Nat.succ_mul] at hfit ⊢
    have hfirst := fireTick_deadline_toNat (s := s) (st := st) (by omega)
    have hlatch : (fireTick st s).latch.get st = s.latch.get st := by rw [fireTick_latch]
    have hrest := ih (fireTick st s) st (by rw [hfirst, hlatch]; omega)
    rw [Function.iterate_succ_apply, hrest, hfirst, hlatch]
    omega

/-! ## O24: SPEEDCHG (R152) -/

/-- A quotient that fits 64 bits is the latch (R152). -/
theorem latchOf_toNat {timeHz rate : Nat} (h : rate ≠ 0 ∧ timeHz / rate < 2 ^ 64) (draw : Nat) :
    (latchOf timeHz rate draw).toNat = timeHz / rate := by
  obtain ⟨hrate, hfit⟩ := h
  rw [latchOf, if_neg (by omega), BitVec.toNat_ofNat, Nat.mod_eq_of_lt hfit]

theorem latches_get (s : State) (st : Stream) :
    ∃ draw, s.latches.get st = latchOf s.cfg.timeHz (s.cfg.rate.get st) draw := by
  cases st <;> exact ⟨_, rfl⟩

/-- Settles O24, by the two branches of the command. -/
theorem speedChangeKeepsDeadlines : Obligations.SpeedChangeKeepsDeadlines := by
  intro s
  refine ⟨fun hl => if_neg hl, fun hl hfit => ⟨_, if_pos hl, fun st => ?_, rfl, rfl, rfl, rfl, rfl⟩⟩
  obtain ⟨draw, e⟩ := latches_get s st
  exact (congrArg BitVec.toNat e).trans (latchOf_toNat (hfit st) draw)

/-! ## O25: TIMEADV (R150, R153, U8) -/

/-- Settles O25, by the two branches of the operation. -/
theorem timeMovesForwardOnly : Obligations.TimeMovesForwardOnly :=
  fun _ _ => ⟨fun h => if_pos h, fun h => if_neg (Nat.not_le.2 h)⟩

end Machine
end Sys2Proof
end

section
/-! O17, O29 to O32, O34 to O36, O58: the commands that start, stop and reconcile the worker, the two waits of the main
path, CDSIG, and the worker's steps outside a pass (R170 to R173, R180, R181, R192). -/

namespace Sys2Proof.Machine

variable {s : State}

/-! ## The bodies of the commands, one lemma per branch -/

theorem startBody_existing (w : Word) (hl : s.life = .active) (hc : s.cdEnable = true) :
    startBody w s = s.respond w .ok := by
  rw [startBody, if_pos hl, if_pos hc]

/-- Steps 1 and 2 of R171, and the wait. -/
theorem startBody_creates (w : Word) (hl : s.life = .active) (hc : s.cdEnable = false) :
    startBody w s =
      { s with run := true, sig := false, startEvt := false, cdDiv := s.cfg.cdN, wState := .starting,
               mixPos := .clear, main := .awaitReady w, hist := .clearStart :: .clearSig :: s.hist } := by
  rw [startBody, if_pos hl, if_neg (by simp [hc])]
  rfl

/-- Step 1 of R172, and the wait. -/
theorem stopBody_waits (k : AfterStop) (w : Word) (hc : s.cdEnable = true) :
    stopBody k w s = { s with run := false, sig := true, main := .awaitExit k w, hist := .setSig :: s.hist } := by
  rw [stopBody, if_pos hc]
  rfl

theorem stopBody_absent (k : AfterStop) (w : Word) (hc : s.cdEnable = false) :
    stopBody k w s = afterStop k w s := by
  rw [stopBody, if_neg (by simp [hc])]

/-- Settles O30, by whether a worker exists. -/
theorem startCreatesWorkerOnce : Obligations.StartCreatesWorkerOnce := by
  intro s hl
  exact ⟨fun hc => congrArg Host.Outcome.next (startBody_existing _ hl hc),
    fun hc => congrArg Host.Outcome.next (startBody_creates _ hl hc)⟩

/-- Settles O31, by whether a worker exists. -/
theorem stopIsIdempotent : Obligations.StopIsIdempotent := by
  intro s
  exact ⟨fun hc => congrArg Host.Outcome.next (stopBody_absent .done _ hc),
    fun hc => congrArg Host.Outcome.next (stopBody_waits .done _ hc)⟩

/-- Settles O29: the samples of the buses leave the registers, and each case is one branch of the start or the stop. -/
theorem checkConvergesToDriveCount : Obligations.CheckConvergesToDriveCount := by
  intro s hl
  obtain ⟨h, hbuses⟩ := sampleBuses_shape s
  refine ⟨checkBody (wordOf .cdcheck) s, if_pos hl, ?_⟩
  rw [checkBody, hbuses]
  split_ifs with hstart hstop
  · rw [startBody_creates (s := { s with hist := h ++ s.hist }) _ hl hstart.2]
    exact ⟨⟨rfl, rfl, rfl, rfl, rfl, rfl, rfl⟩, rfl⟩
  · rw [stopBody_waits (s := { s with hist := h ++ s.hist }) _ _ hstop.2]
    exact ⟨⟨rfl, rfl, rfl, rfl, rfl, rfl, rfl, rfl⟩, rfl⟩
  · exact ⟨⟨rfl, rfl, rfl, rfl, rfl, rfl, rfl, rfl, rfl⟩, rfl⟩

/-! ## The main path goes on (R171 step 4, R172 step 3) -/

theorem step_main {rest : List Turn} (ha : s.agenda = .main :: rest) :
    step s = .next (resume { s with agenda := rest }) := by
  simp only [step, takeTurn, ha]

theorem resume_awaitReady {w : Word} (hm : s.main = .awaitReady w) (he : s.startEvt = true) :
    resume s = afterReady w s := by
  simp [resume, mainReady, hm, he]

theorem resume_awaitExit {k : AfterStop} {w : Word} (hm : s.main = .awaitExit k w) (hw : s.wState = .exited) :
    resume s = afterExit k w s := by
  simp [resume, mainReady, hm, hw]

/-- Settles O17, by the command that waited. -/
theorem stopReleasesWorkerThenFinishes : Obligations.StopReleasesWorkerThenFinishes := by
  intro s rest k w ha hm hw
  refine ⟨afterExit k w { s with agenda := rest }, ?_, ?_⟩
  · rw [step_main ha, resume_awaitExit (by exact hm) (by exact hw)]
  · cases k with
    | done => exact ⟨rfl, rfl, rfl, rfl, rfl, rfl, rfl, rfl, rfl, rfl, ⟨rfl, rfl, rfl, rfl, rfl⟩, rfl⟩
    | resetFailed => exact ⟨rfl, rfl, rfl, rfl, rfl, rfl, rfl, rfl, rfl, rfl, ⟨rfl, rfl, rfl, rfl, rfl⟩, rfl⟩
    | teardown => exact ⟨rfl, rfl, rfl, rfl, rfl, rfl, rfl, rfl, rfl, rfl, ⟨rfl, rfl, rfl, rfl, rfl⟩, rfl⟩

/-! ## No turn prescribed (log entry 1) -/

theorem step_rest (ha : s.agenda = []) : step s = restTurn s := by
  simp only [step, takeTurn, ha]

/-- A waiting main path whose wait has ended goes on. -/
theorem step_rest_ready (ha : s.agenda = []) (hm : s.main ≠ .idle) (hr : mainReady s = true) :
    step s = .next (resume s) := by
  rw [step_rest ha, restTurn, if_pos hm, waitTurn, if_pos hr]

/-- While the wait lasts, the worker steps. -/
theorem step_rest_worker (ha : s.agenda = []) (hm : s.main ≠ .idle) (hr : mainReady s = false) :
    step s = workerTurn s := by
  rw [step_rest ha, restTurn, if_pos hm, waitTurn, if_neg (by simp [hr])]

theorem step_rest_idle (ha : s.agenda = []) (hm : s.main = .idle) (hw : workerEnabled s = false) :
    step s = .next (fireDue s) := by
  rw [step_rest ha, restTurn, if_neg (by simp [hm]), if_neg (by simp [hw])]

/-! ## The worker's steps outside a pass (R180, R181) -/

/-- Settles O35. -/
theorem readySignalsStart : Obligations.ReadySignalsStart := fun _ hw => if_pos hw

theorem execWwake_exits (hw : s.wState = .waiting) (hg : s.sig = true) (hr : s.run = false) :
    execWwake s = .next { s with sig := false, wState := .exited, hist := .clearSig :: s.hist } := by
  rw [execWwake, if_pos ⟨hw, hg⟩]
  exact if_neg (by simp [hr])

theorem execWwake_latches (hw : s.wState = .waiting) (hg : s.sig = true) (hr : s.run = true) :
    execWwake s = .next { s with sig := false, wFmt := s.fmt, wFilt := s.filt.cd, wState := .mixing,
                                 mem := s.mem.putCdout (s.mem.cdout.retype s.fmt), mixPos := .clear,
                                 hist := .clearSig :: s.hist } := by
  rw [execWwake, if_pos ⟨hw, hg⟩]
  exact if_pos hr

/-- Settles O36, by the token and by `RUN`. -/
theorem wakeTakesTokenAndLatches : Obligations.WakeTakesTokenAndLatches := fun _ =>
  ⟨execWwake_exits, execWwake_latches, fun _ hg => if_neg (by simp [hg])⟩

/-- Settles O32: W.READY sets the event the main path waits for, and the main path goes on. -/
theorem startHandshakeCompletes : Obligations.StartHandshakeCompletes := by
  intro s hl hc ha
  let u : State :=
    { s with run := true, sig := false, startEvt := false, cdDiv := s.cfg.cdN, wState := .starting, mixPos := .clear,
             main := .awaitReady (wordOf .cdstart), hist := .clearStart :: .clearSig :: s.hist }
  let v : State := { u with startEvt := true, wState := .waiting, hist := .setStart :: u.hist }
  have hu : exec .cdstart s = .next u := congrArg Host.Outcome.next (startBody_creates _ hl hc)
  have hv : step u = .next v := (step_rest_worker (s := u) ha nofun rfl).trans (readySignalsStart u rfl)
  have ht : step v = .next (afterReady (wordOf .cdstart) v) :=
    (step_rest_ready (s := v) ha nofun rfl).trans (congrArg Host.Outcome.next (resume_awaitReady rfl rfl))
  exact ⟨u, v, _, hu, hv, ht, rfl, rfl, rfl, rfl, rfl, rfl, rfl, rfl, rfl, rfl, rfl⟩

/-! ## No deadlock (R192) -/

/-- While the main path waits, the worker has a step or has done what is waited for. -/
theorem coupled_progress (h : coupled s) (hm : s.main ≠ .idle) : mainReady s = true ∨ workerEnabled s = true := by
  cases hmain : s.main with
  | idle => exact absurd hmain hm
  | awaitReady w =>
    obtain ⟨_, _, _, _, ⟨hw, _⟩ | ⟨_, he⟩⟩ := (coupled_awaitReady hmain).1 h
    · exact .inr (by simp [workerEnabled, hw])
    · exact .inl (by simp [mainReady, hmain, he])
  | awaitExit k w =>
    obtain ⟨_, _, _, _, ⟨hg, hw | hw⟩ | ⟨_, hw⟩⟩ := (coupled_awaitExit hmain).1 h
    · exact .inr (by simp [workerEnabled, hw, hg])
    · exact .inr (by simp [workerEnabled, hw])
    · exact .inl (by simp [mainReady, hmain, hw])

/-- A quiescent worker has no step. -/
theorem workerEnabled_of_quiescent (h : quiescent s = true) : workerEnabled s = false := by
  simp only [quiescent, Bool.or_eq_true, Bool.and_eq_true, decide_eq_true_eq, Bool.not_eq_true'] at h
  obtain hw | ⟨hw, hg⟩ := h
  · simp [workerEnabled, hw]
  · simp [workerEnabled, hw, hg]

/-- Settles O58: the coupling gives one of the two a step, and where a run may end neither agent nor a timer has one. -/
theorem waitsDoNotDeadlock : Obligations.WaitsDoNotDeadlock := by
  refine ⟨fun s h hm => coupled_progress h.worker hm, fun s hf ha => ?_⟩
  simp only [finished, Bool.and_eq_true, decide_eq_true_eq, Option.isNone_iff_eq_none] at hf
  obtain ⟨⟨hq, hm⟩, hd⟩ := hf
  rw [step_rest_idle ha hm (workerEnabled_of_quiescent hq), fireDue, hd]

/-! ## CDSIG (R173) -/

theorem cdSignal_disabled (hc : s.cdEnable = false) : cdSignal s = s := if_neg (by simp [hc])

theorem cdSignal_counts (hc : s.cdEnable = true) (h1 : 1 < s.cdDiv) :
    cdSignal s = { s with cdDiv := s.cdDiv - 1, draws := s.draws + 1 } := by
  have hdown : s.countDown = s.cdDiv - 1 := if_neg (by omega)
  rw [cdSignal, if_pos hc, hdown, if_neg (by omega)]

theorem cdSignal_reloads (hc : s.cdEnable = true) (h1 : s.cdDiv = 1) :
    cdSignal s = { s with cdDiv := s.cfg.cdN, sig := true, draws := s.draws + 1, hist := .setSig :: s.hist } := by
  have hdown : s.countDown = 0 := by simp [State.countDown, h1]
  rw [cdSignal, if_pos hc, if_pos hdown]
  rfl

/-- The steps of a flush before CDSIG leave what CDSIG reads. -/
theorem delivered_divider (st : Stream) (s : State) {t : State}
    (ht : deliverStream st (convert st (addSources st (clearRaw st s))) = t) :
    t.cdEnable = s.cdEnable ∧ t.cdDiv = s.cdDiv ∧ t.sig = s.sig ∧ t.cfg = s.cfg := by
  obtain ⟨r, v, a, n, h, e, _⟩ :=
    foldl_addSource_shape st (s.handlers.get st) (clearRaw st s) (by simp [clearRaw, streamSize])
  change addSources st (clearRaw st s) = _ at e
  obtain ⟨m, hm⟩ := convert_shape st (addSources st (clearRaw st s))
  rw [← ht, hm, e]
  exact ⟨rfl, rfl, rfl, rfl⟩

/-- Settles O34: the branches of CDSIG, and a flush that leaves what CDSIG reads until it runs it. -/
theorem signalDividesByN : Obligations.SignalDividesByN := by
  intro s
  refine ⟨fun hc => congrArg Host.Outcome.next (cdSignal_disabled hc), fun hc h1 => ⟨_, rfl, ?_⟩,
    fun hc h1 => ⟨_, rfl, ?_⟩, fun h1 => ⟨_, _, rfl, rfl, ?_⟩, fun st hst => ⟨_, rfl, ?_⟩⟩
  · rw [cdSignal_counts hc h1]
    exact ⟨rfl, rfl⟩
  · rw [cdSignal_reloads hc h1]
    exact ⟨rfl, rfl, rfl, rfl⟩
  · obtain ⟨he, hd, hg, hcfg⟩ := delivered_divider .effects s rfl
    exact cdSignal_congr he hd hg (by rw [hcfg]) h1
  · obtain ⟨_, _, _, _, _, _, _, _, e, _, _, _, _, _, hkeep, _⟩ := flush_shape st s
    rw [e]
    exact hkeep (.inr hst)

end Sys2Proof.Machine
end

section
/-! O37 to O40: the sub-steps of a pass (R182 to R188): the clear, the delivery, and a drive that is silent, dry or
mixed. -/

namespace Sys2Proof.Machine

variable {s : State} {d r : Nat} {blk : List I16} {more : List (Nat × List I16)} {gL gR : F64} {p : Sampled}

/-! ## Which sub-step W.MIX takes (R183) -/

theorem execWmix_clear (hw : s.wState = .mixing) (hp : s.mixPos = .clear) : execWmix s = .next (mixClear s) := by
  rw [execWmix, if_pos hw, hp]

theorem execWmix_drive (hw : s.wState = .mixing) (hp : s.mixPos = .drive d) : execWmix s = mixDrive d s := by
  rw [execWmix, if_pos hw, hp]

theorem execWmix_deliver (hw : s.wState = .mixing) (hp : s.mixPos = .deliver) :
    execWmix s = .next (mixDeliver s) := by
  rw [execWmix, if_pos hw, hp]

/-- Settles O37, from the two sub-steps as the model writes them. -/
theorem passClearsThenDelivers : Obligations.PassClearsThenDelivers := by
  intro s hw
  exact ⟨fun hp => ⟨_, execWmix_clear hw hp, rfl, rfl, fun sp i hsp => read_putCdout_other _ _ i hsp, rfl⟩,
    fun hp => ⟨_, execWmix_deliver hw hp, rfl, rfl, rfl⟩⟩

/-! ## The samples and the decode (R184 steps 1 to 3) -/

/-- The first samples are neither calls nor deliveries. -/
theorem pollDrive_frame (d : Nat) (s : State) : ∃ h,
    pollDrive d s = { s with mixPos := MixPos.after s.cfg d, hist := h ++ s.hist } ∧
    deliveries h = [] ∧ oracleCalls h = [] := by
  unfold pollDrive
  dsimp only
  split_ifs
  · exact ⟨[.sampledPlaying d (driveAt s d).playing, .sampledBus d (driveAt s d).busEn], rfl, rfl, rfl⟩
  · exact ⟨[.sampledBus d (driveAt s d).busEn], rfl, rfl, rfl⟩

/-- An answer of the right length is taken as it is (R75, R97). -/
theorem decodeAnswer_scripted (ha : s.answers.decode = (r, blk) :: more) (hlen : blk.length = cdSize s) :
    s.decodeAnswer = (r, blk) := by
  unfold State.decodeAnswer
  rw [ha]
  exact if_pos hlen

theorem pollDrive_decodeAnswer (ha : s.answers.decode = (r, blk) :: more) (hlen : blk.length = cdSize s) :
    (pollDrive d s).decodeAnswer = (r, blk) := by
  obtain ⟨h, e, _⟩ := pollDrive_frame d s
  rw [e]
  exact decodeAnswer_scripted ha hlen

/-- The state after the samples and a decode that answers the block `blk`. -/
theorem pollDrive_decodeCalled (d : Nat) (ha : s.answers.decode = (r, blk) :: more) (hlen : blk.length = cdSize s) :
    ∃ n h, (pollDrive d s).decodeCalled d =
      { s with mixPos := MixPos.after s.cfg d, mem := s.mem.putCdbuf d blk,
               answers := { s.answers with decode := more }, draws := n, hist := h ++ s.hist } ∧
      deliveries h = [] ∧ oracleCalls h = [.decode d r blk] := by
  obtain ⟨h, e, hd, hc⟩ := pollDrive_frame d s
  refine ⟨s.draws + cdSize s + 1, [.decode d r blk] ++ h, ?_, ?_, ?_⟩
  · rw [State.decodeCalled, pollDrive_decodeAnswer ha hlen, e]
    simp only [ha, List.tail_cons]
    rfl
  · rw [deliveries_append, hd]
    rfl
  · rw [oracleCalls_append, hc]
    rfl

theorem mixDrive_silent (h : (driveAt s d).busEn = false ∨ (driveAt s d).playing = false) :
    mixDrive d s = .next (pollDrive d s) :=
  if_neg (by obtain h | h := h <;> simp [h])

theorem mixDrive_playing (hb : (driveAt s d).busEn = true) (hp : (driveAt s d).playing = true)
    (ha : s.answers.decode = (r, blk) :: more) (hlen : blk.length = cdSize s) : mixDrive d s =
      if r = 0 then .next ((pollDrive d s).decodeCalled d) else mixBlock d blk ((pollDrive d s).decodeCalled d) := by
  unfold mixDrive
  dsimp only
  rw [if_pos ⟨hb, hp⟩, pollDrive_decodeAnswer ha hlen]

/-- Settles O38: a silent drive is sampled, a dry one is sampled and asked. -/
theorem silentDriveContributesNothing : Obligations.SilentDriveContributesNothing := by
  intro s d hw hpos
  refine ⟨fun hsilent => ?_, fun blk more hb hp ha hlen => ?_⟩
  · obtain ⟨h, e, hd, hc⟩ := pollDrive_frame d s
    refine ⟨_, (execWmix_drive hw hpos).trans (mixDrive_silent hsilent), ?_⟩
    rw [e]
    dsimp only
    rw [oracleCalls_append, deliveries_append, hc, hd, List.append_nil, List.append_nil]
    exact ⟨rfl, rfl, rfl, rfl⟩
  · obtain ⟨n, h, e, hd, hc⟩ := pollDrive_decodeCalled d ha hlen
    refine ⟨_, (execWmix_drive hw hpos).trans ((mixDrive_playing hb hp ha hlen).trans (if_pos rfl)), ?_⟩
    rw [e]
    dsimp only
    rw [oracleCalls_append, deliveries_append, hc, hd, List.append_nil]
    exact ⟨rfl, rfl, rfl, rfl, rfl, rfl⟩

/-! ## The frames of a block (R184 steps 4 and 5, R185 to R188) -/

/-- The accumulation of a block, element by element in the format of the pass (R188). -/
theorem accumulated_elements (p : Sampled) (hlen : s.mem.cdout.length = cdSize s) (hfmt : s.mem.cdout.fmt = s.wFmt) :
    ∃ b, accumulated s p = some b ∧ ∀ i, i < cdSize s →
      (∀ a, s.mem.read .cdout i = some (.int16 a) → b.read i = some (.int16 (mixInt s i a (mixValue s p i)))) ∧
      (∀ a, s.mem.read .cdout i = some (.f32 a) →
        b.read i = some (.f32 (Num.addf s.cfg.num a (Num.f2f s.cfg.num (mixValue s p i))))) := by
  unfold accumulated Memory.read
  cases hc : s.mem.cdout with
  | int16 xs =>
    rw [hc] at hlen hfmt
    rw [← hfmt]
    refine ⟨_, if_pos hlen, fun i hi => ⟨fun a h => ?_, fun a h => ?_⟩⟩
    · have hx : xs[i]? = some a := by simpa [Block.read] using h
      simp [Block.read, hi, hx]
    · simp [Block.read] at h
  | float xs =>
    rw [hc] at hlen hfmt
    rw [← hfmt]
    refine ⟨_, if_pos hlen, fun i hi => ⟨fun a h => ?_, fun a h => ?_⟩⟩
    · simp [Block.read] at h
    · have hx : xs[i]? = some a := by simpa [Block.read] using h
      simp [Block.read, hi, hx]

theorem filterAnswer_scripted {i : Nat} (hi : i < s.answers.filter.length) :
    s.filterAnswer i = s.answers.filter.getD i 0 := by
  simp [State.filterAnswer, hi]

/-- The value of element `i` with the latched filter's answers fixed in advance (R187). -/
def scriptedValue (s : State) (p : Sampled) (i : Nat) : F64 :=
  if s.wFilt.cb = 0 then p.scaled s.cfg.num i else s.answers.filter.getD i 0

theorem mixValue_scripted (p : Sampled) (hfilt : s.wFilt.cb ≠ 0 → cdSize s ≤ s.answers.filter.length) {i : Nat}
    (hi : i < cdSize s) : mixValue s p i = scriptedValue s p i := by
  unfold mixValue scriptedValue
  by_cases hcb : s.wFilt.cb = 0
  · rw [if_neg (not_not.2 hcb), if_pos hcb]
  · rw [if_pos hcb, if_neg hcb, filterAnswer_scripted (hi.trans_le (hfilt hcb))]

/-- The filter calls of a block with the answers fixed in advance, in order (R78, R187). -/
def filterCalls (s : State) (p : Sampled) : List Event :=
  if s.wFilt.cb = 0 then []
  else (List.range (cdSize s)).map fun i =>
    .filter s.wFilt (channelOf i) (p.scaled s.cfg.num i) (s.answers.filter.getD i 0)

theorem oracleCalls_filterEvents (p : Sampled) (hfilt : s.wFilt.cb ≠ 0 → cdSize s ≤ s.answers.filter.length) :
    oracleCalls (filterEvents s p) = filterCalls s p := by
  unfold filterEvents filterCalls
  by_cases hcb : s.wFilt.cb = 0
  · rw [if_neg (not_not.2 hcb), if_pos hcb]
    rfl
  · rw [if_pos hcb, if_neg hcb, oracleCalls, List.filter_reverse, List.reverse_reverse, List.filter_eq_self.2]
    · refine List.map_congr_left fun i hi => ?_
      rw [filterAnswer_scripted ((List.mem_range.1 hi).trans_le (hfilt hcb))]
    · simp

theorem deliveries_filterEvents (s : State) (p : Sampled) : deliveries (filterEvents s p) = [] := by
  unfold filterEvents
  split_ifs
  · simp [deliveries]
  · rfl

theorem mixFrames_of_accumulated {b : Block} (h : accumulated s p = some b) : mixFrames p s =
    .next { s with mem := s.mem.putCdout b
                   answers := { s.answers with
                     filter := if s.wFilt.cb = 0 then s.answers.filter else s.answers.filter.drop (cdSize s) }
                   draws := s.draws + cdSize s, hist := filterEvents s p ++ s.hist } := by
  unfold mixFrames
  rw [h]
  simp only [ite_not]

/-- The samples of step 4 (R184) are neither calls nor deliveries, and the frames are mixed after them. -/
theorem mixBlock_frames (blk : List I16) (hL : s.mem.voltab[volIndex (driveAt s d) .left]? = some gL)
    (hR : s.mem.voltab[volIndex (driveAt s d) .right]? = some gR) : ∃ h,
    mixBlock d blk s = mixFrames ⟨gL, gR, (driveAt s d).routeL, (driveAt s d).routeR, blk⟩ { s with hist := h ++ s.hist } ∧
    deliveries h = [] ∧ oracleCalls h = [] := by
  unfold mixBlock
  dsimp only
  rw [hL, hR]
  exact ⟨[.sampledRoute .., .sampledVol ..], rfl, rfl, rfl⟩

theorem mixInt_of_f2i {i : Nat} {a y : I16} {v : F64} (h : Num.f2i s.cfg.num v = some y) :
    mixInt s i a v = accInt s.cfg.cdIntAcc a y := by
  unfold mixInt
  rw [h]

/-! ## O39: a playing drive -/

/-- A playing drive, its block and the filter's answers fixed in advance, with the gains of its two channels and a block
`CDOUT` of the pass's size and format. -/
structure Playing (s : State) (d r : Nat) (blk : List I16) (more : List (Nat × List I16)) (gL gR : F64) : Prop where
  bus : (driveAt s d).busEn = true
  status : (driveAt s d).playing = true
  decode : s.answers.decode = (r, blk) :: more
  size : blk.length = cdSize s
  frames : r ≠ 0
  gainL : s.mem.voltab[volIndex (driveAt s d) .left]? = some gL
  gainR : s.mem.voltab[volIndex (driveAt s d) .right]? = some gR
  length : s.mem.cdout.length = cdSize s
  format : s.mem.cdout.fmt = s.wFmt
  filter : s.wFilt.cb ≠ 0 → cdSize s ≤ s.answers.filter.length

/-- What is sampled of the drive, with its block. -/
def sampledOf (s : State) (d : Nat) (blk : List I16) (gL gR : F64) : Sampled :=
  ⟨gL, gR, (driveAt s d).routeL, (driveAt s d).routeR, blk⟩

/-- Element `i` of the block `b` is that of `CDOUT` with the value `v` converted and accumulated (R188); an integer
element is some int16 where the value is not finite (U4). -/
def ElementMixed (s : State) (b : Block) (v : F64) (i : Nat) : Prop :=
  (∀ a, s.mem.read .cdout i = some (.int16 a) → ∃ z, b.read i = some (.int16 z) ∧
    ∀ y, Num.f2i s.cfg.num v = some y → z = accInt s.cfg.cdIntAcc a y) ∧
  (∀ a, s.mem.read .cdout i = some (.f32 a) →
    b.read i = some (.f32 (Num.addf s.cfg.num a (Num.f2f s.cfg.num v))))

/-- The samples and the decode of a playing drive, up to its frames (R184 steps 1 to 4). -/
theorem Playing.frames_mixed (h : Playing s d r blk more gL gR) : ∃ u n hh,
    mixDrive d s = mixFrames (sampledOf s d blk gL gR) u ∧
    u = { s with mixPos := MixPos.after s.cfg d, mem := s.mem.putCdbuf d blk,
                 answers := { s.answers with decode := more }, draws := n, hist := hh ++ s.hist } ∧
    deliveries hh = [] ∧ oracleCalls hh = [.decode d r blk] := by
  obtain ⟨n, h1, hcalled, hd1, hc1⟩ := pollDrive_decodeCalled d h.decode h.size
  obtain ⟨h2, hblock, hd2, hc2⟩ := mixBlock_frames (d := d) (s := (pollDrive d s).decodeCalled d) blk
    (by rw [hcalled]; exact h.gainL) (by rw [hcalled]; exact h.gainR)
  refine ⟨_, n, h2 ++ h1, ?_, rfl, ?_, ?_⟩
  · rw [mixDrive_playing h.bus h.status h.decode h.size, if_neg h.frames, hblock, hcalled, List.append_assoc]
    rfl
  · rw [deliveries_append, hd1, hd2]
    rfl
  · rw [oracleCalls_append, hc1, hc2]
    rfl

/-- MIX.drive of a playing drive: the one decode, the filter's calls, and the elements of `CDOUT`. -/
theorem Playing.mixDrive_eq (h : Playing s d r blk more gL gR) : ∃ b n hh,
    mixDrive d s = .next
      { s with mixPos := MixPos.after s.cfg d, mem := (s.mem.putCdbuf d blk).putCdout b
               answers := { s.answers with
                 decode := more
                 filter := if s.wFilt.cb = 0 then s.answers.filter else s.answers.filter.drop (cdSize s) }
               draws := n, hist := hh ++ s.hist } ∧
    deliveries hh = [] ∧ oracleCalls hh = .decode d r blk :: filterCalls s (sampledOf s d blk gL gR) ∧
    ∀ i, i < cdSize s → ElementMixed s b (scriptedValue s (sampledOf s d blk gL gR) i) i := by
  obtain ⟨u, n, h1, hframes, hu, hd, hc⟩ := h.frames_mixed
  obtain ⟨b, hb, helem⟩ := accumulated_elements (s := u) (sampledOf s d blk gL gR)
    (by rw [hu]; exact h.length) (by rw [hu]; exact h.format)
  have hcalls : oracleCalls (filterEvents u (sampledOf s d blk gL gR)) = filterCalls s (sampledOf s d blk gL gR) := by
    rw [oracleCalls_filterEvents] <;> rw [hu]
    · rfl
    · exact h.filter
  refine ⟨b, n + cdSize s, filterEvents u (sampledOf s d blk gL gR) ++ h1, ?_, ?_, ?_, fun i hi => ?_⟩
  · rw [hframes, mixFrames_of_accumulated hb, List.append_assoc, hu]
    rfl
  · rw [deliveries_append, hd, deliveries_filterEvents]
    rfl
  · rw [oracleCalls_append, hc, hcalls]
    rfl
  · have hv : mixValue u (sampledOf s d blk gL gR) i = scriptedValue s (sampledOf s d blk gL gR) i := by
      rw [mixValue_scripted] <;> rw [hu]
      · rfl
      · exact h.filter
      · exact hi
    obtain ⟨hint, hfloat⟩ := helem i (by rw [hu]; exact hi)
    rw [hv] at hint hfloat
    have hread : ∀ e, s.mem.read .cdout i = some e → u.mem.read .cdout i = some e := by
      rw [hu]
      exact fun _ e => e
    refine ⟨fun a ha => ⟨_, hint a (hread _ ha), fun y hy => ?_⟩, fun a ha => ?_⟩
    · rw [mixInt_of_f2i (y := y)] <;> rw [hu]
      exact hy
    · rw [hfloat a (hread _ ha), hu]

/-- Settles O39: the drive is `Playing`, and the elements are those of `ElementMixed`. -/
theorem driveIsMixedElementByElement : Obligations.DriveIsMixedElementByElement := by
  intro s d r blk more gL gR hw hpos hb hp ha hlen hr hgL hgR hclen hfmt hfilt m x scaled v
  have hgain : ∀ {i : Nat} {g : F64}, s.mem.read .voltab i = some (.f64 g) → s.mem.voltab[i]? = some g := by
    simp [Memory.read]
  have hplay : Playing s d r blk more gL gR :=
    ⟨hb, hp, ha, hlen, hr, hgain hgL, hgain hgR, hclen, hfmt, hfilt⟩
  obtain ⟨b, n, hh, e, hd, hc, helem⟩ := hplay.mixDrive_eq
  refine ⟨_, (execWmix_drive hw hpos).trans e, rfl, fun sp i hout hbuf => ?_, rfl, rfl, ?_, ?_, fun i hi => ?_, rfl⟩
  · exact (read_putCdout_other _ b i hout).trans (read_putCdbuf_other _ d blk i hbuf)
  · dsimp only
    rw [oracleCalls_append, hc]
    rfl
  · dsimp only
    rw [deliveries_append, hd, List.append_nil]
  · obtain ⟨hint, hfloat⟩ := helem i hi
    refine ⟨fun a y _ hread hy => ?_, fun a _ hread _ => ?_, fun a _ hread => hfloat a hread⟩
    · obtain ⟨z, hz, hacc⟩ := hint a hread
      exact hz.trans (congrArg (some <| Elem.int16 ·) (hacc y hy))
    · obtain ⟨z, hz, _⟩ := hint a hread
      exact ⟨z, hz⟩

/-! ## O40: full volume and no filter over a cleared block -/

/-- At full volume an integer comes back clamped from the integer conversion, in every record where it is in the int16
range (R186, R188). -/
theorem f2i_mulvol_one (n : Numerics) {x : Int} (hlo : -65536 ≤ x) (hhi : x ≤ 65534)
    (h : n = .ieee ∨ (-32768 ≤ x ∧ x ≤ 32767)) :
    Num.f2i n (Num.mulvol n x Num.one64) = some (BitVec.ofInt 16 (Num.clamp16 x)) := by
  obtain ⟨hfin, hval, _⟩ := Num.mulvolOk_iff.1 (Num.mulvolOk_of_routed n hlo hhi (g := Num.one64) le_rfl)
  obtain rfl | ⟨hmin, hmax⟩ := h
  · obtain ⟨_, _, htrunc⟩ := Num.unityAndZeroGain
    refine htrunc x _ hfin ?_
    rw [hval rfl]
    exact Int.mul_tdiv_cancel _ (pow_ne_zero _ two_ne_zero)
  · have hclamp : Num.clamp16 x = x := by
      unfold Num.clamp16
      split_ifs <;> omega
    have hx : (BitVec.ofInt 16 x).toInt = x := hclamp ▸ Num.toInt_ofInt_clamp16 le_rfl x
    rw [hclamp]
    exact Num.f2i_of_int16 n hfin (by rw [hx]; exact hval rfl)

/-- Accumulating into silence, in either mode (R188). -/
theorem accInt_zero (mode : IntAcc) (y : I16) : accInt mode 0 y = y := by
  cases mode with
  | saturate => simp [accInt, Num.clamp16_of_int16]
  | wrap => simp [accInt]

/-- The masks of R185. -/
theorem mask_cases (m : BitVec 2) : m = 0 ∨ m = 1 ∨ m = 2 ∨ m = 3 := by
  revert m
  decide

theorem routeSum_bounds (m : BitVec 2) (sL sR : I16) :
    -65536 ≤ routeSum m sL sR ∧ routeSum m sL sR ≤ 65534 ∧
    (m ≠ 3 ∨ (-32768 ≤ sL.toInt + sR.toInt ∧ sL.toInt + sR.toInt ≤ 32767) →
      -32768 ≤ routeSum m sL sR ∧ routeSum m sL sR ≤ 32767) := by
  have := sL.toInt_lt
  have := sL.le_toInt
  have := sR.toInt_lt
  have := sR.le_toInt
  obtain rfl | rfl | rfl | rfl := mask_cases m <;> simp [routeSum] <;> omega

/-- The routed sample clamped: the clamped sum of both sources, one source, or silence (R185, R188). -/
theorem clamped_routeSum (m : BitVec 2) (sL sR : I16) : BitVec.ofInt 16 (Num.clamp16 (routeSum m sL sR)) =
    if m = 3 then BitVec.ofInt 16 (Num.clamp16 (sL.toInt + sR.toInt))
    else if m = 1 then sL else if m = 2 then sR else 0 := by
  obtain rfl | rfl | rfl | rfl := mask_cases m
  · rfl
  · simp [routeSum, Num.clamp16_of_int16]
  · simp [routeSum, Num.clamp16_of_int16]
  · simp [routeSum]

@[simp] theorem frameOf_elementIndex (k : Nat) (c : Channel) : frameOf (elementIndex k c) = k := by
  cases c <;> simp only [frameOf, elementIndex, Channel.index] <;> omega

@[simp] theorem channelOf_elementIndex (k : Nat) (c : Channel) : channelOf (elementIndex k c) = c := by
  cases c <;> simp [channelOf, elementIndex, Channel.index]

theorem elementIndex_lt {k n : Nat} (h : k < n) (c : Channel) : elementIndex k c < 2 * n := by
  cases c <;> simp only [elementIndex, Channel.index] <;> omega

/-- Settles O40: the drive is `Playing` with unity gains, and the routed sample comes back clamped. -/
theorem fullVolumeDriveIsRoutedExactly : Obligations.FullVolumeDriveIsRoutedExactly := by
  intro s d r blk more hw hpos hb hp hvol ha hlen hr hgain hcb hfmt hzero
  have hg : ∀ c, s.mem.voltab[volIndex (driveAt s d) c]? = some Num.one64 := by
    intro c
    rw [volIndex, hvol]
    simpa [Memory.read, Num.one64] using hgain
  have hplay : Playing s d r blk more Num.one64 Num.one64 :=
    ⟨hb, hp, ha, hlen, hr, hg .left, hg .right, by rw [hzero, Block.zeros_length], by rw [hzero, hfmt]; rfl,
      fun h => absurd hcb h⟩
  obtain ⟨b, n, hh, e, _, _, helem⟩ := hplay.mixDrive_eq
  refine ⟨_, (execWmix_drive hw hpos).trans e, fun k c hk => ?_⟩
  intro m sL sR hnum
  obtain ⟨hlo, hhi, hmask⟩ := routeSum_bounds m sL sR
  have hi : elementIndex k c < cdSize s := elementIndex_lt hk c
  have hsilent : s.mem.read .cdout (elementIndex k c) = some (.int16 0) := by
    simp [Memory.read, hzero, Block.zeros, Block.read, hi]
  have hvalue : scriptedValue s (sampledOf s d blk Num.one64 Num.one64) (elementIndex k c) =
      Num.mulvol s.cfg.num (routeSum m sL sR) Num.one64 := by
    rw [scriptedValue, if_pos hcb, Sampled.scaled, Sampled.routed, channelOf_elementIndex, frameOf_elementIndex]
    cases c <;> rfl
  have hconv := f2i_mulvol_one s.cfg.num hlo hhi (hnum.imp_right hmask)
  obtain ⟨z, hz, hacc⟩ := (helem _ hi).1 0 hsilent
  rw [← clamped_routeSum, ← accInt_zero s.cfg.cdIntAcc (BitVec.ofInt 16 _), ← hacc _ (by rw [hvalue, hconv])]
  exact hz

end Sys2Proof.Machine
end

section
/-! O33, O41, O42: whole passes (R182, R183), and the stop that joins the worker after the pass in flight (R172). -/

namespace Sys2Proof.Machine

variable {s t u : State} {f : State → Out}

/-! ## Runs -/

/-- `n` steps of `f`, each a next state, lead from one state to the other. -/
inductive Runs (f : State → Out) : Nat → State → State → Prop
  | refl (s : State) : Runs f 0 s s
  | head {n : Nat} {s u t : State} : f s = .next u → Runs f n u t → Runs f (n + 1) s t

theorem Runs.trans {m n : Nat} (h : Runs f m s u) (h' : Runs f n u t) : Runs f (m + n) s t := by
  induction h with
  | refl s => rwa [Nat.zero_add]
  | head e _ ih =>
    rw [Nat.succ_add]
    exact .head e (ih h')

theorem Runs.repeatWmix {n : Nat} (h : Runs execWmix n s t) : repeatWmix n s = .next t := by
  induction h with
  | refl s => rfl
  | head e _ ih =>
    rw [Machine.repeatWmix, exec, e]
    exact ih

theorem coreRun_succ {M : Host.Core} {s t : M.State} (h : M.step s = .next t) (n : Nat) :
    M.run (n + 1) s = M.run n t := by
  rw [Host.Core.run, h]

theorem Runs.core {n : Nat} (h : Runs step n s t) : Host.Core.run Sys2Proof.core n s = .next t := by
  induction h with
  | refl s => rfl
  | head e _ ih => exact (coreRun_succ (M := Sys2Proof.core) e _).trans ih

/-! ## The sub-steps of a pass (R182, R183) -/

/-- The sub-steps that are left of a pass, with the one that is next. -/
def subSteps (s : State) : Nat :=
  match s.mixPos with
  | .clear => s.cfg.cdromNum + 2
  | .drive d => s.cfg.cdromNum - (d + 1) + 2
  | .deliver => 1

theorem subSteps_le (s : State) : subSteps s ≤ s.cfg.cdromNum + 2 := by
  unfold subSteps
  split <;> omega

theorem MixPos.first_cases (c : Params) : MixPos.first c = .drive 0 ∧ 0 < c.cdromNum ∨
    MixPos.first c = .deliver ∧ c.cdromNum = 0 := by
  unfold MixPos.first
  split_ifs with h
  · exact .inl ⟨rfl, h⟩
  · exact .inr ⟨rfl, by omega⟩

theorem MixPos.after_cases (c : Params) (d : Nat) : MixPos.after c d = .drive (d + 1) ∧ d + 1 < c.cdromNum ∨
    MixPos.after c d = .deliver ∧ c.cdromNum ≤ d + 1 := by
  unfold MixPos.after
  split_ifs with h
  · exact .inl ⟨rfl, h⟩
  · exact .inr ⟨rfl, by omega⟩

/-- A sub-step before the delivery leaves the worker in MIXING with one sub-step less to take. -/
theorem execWmix_moves (hw : s.wState = .mixing) (hp : s.mixPos ≠ .deliver) (e : execWmix s = .next t) :
    t.wState = .mixing ∧ subSteps s = subSteps t + 1 := by
  obtain ⟨hn, _⟩ | ⟨_, hpos, rfl⟩ | ⟨d, _, hpos, ed⟩ | ⟨_, hpos, _⟩ := execWmix_next e
  · exact absurd hw hn
  · refine ⟨hw, ?_⟩
    obtain ⟨hf, hn⟩ | ⟨hf, hn⟩ := MixPos.first_cases s.cfg <;> simp only [subSteps, hpos, mixClear, hf] <;> omega
  · obtain ⟨_, _, _, _, _, _, rfl, _⟩ := mixDrive_next ed
    refine ⟨hw, ?_⟩
    obtain ⟨ha, hn⟩ | ⟨ha, hn⟩ := MixPos.after_cases s.cfg d <;> simp only [subSteps, hpos, ha] <;> omega
  · exact absurd hpos hp

/-- A pass reaches its delivery: where `f` takes the sub-steps, and those before the delivery complete and keep `P`. -/
theorem pass_runs {P : State → Prop} (hf : ∀ u, P u → u.wState = .mixing → f u = execWmix u)
    (hP : ∀ u, P u → u.wState = .mixing → u.mixPos ≠ .deliver → ∃ t, execWmix u = .next t ∧ P t)
    (hs : P s) (hw : s.wState = .mixing) :
    ∃ u, P u ∧ u.wState = .mixing ∧ u.mixPos = .deliver ∧ Runs f (subSteps s) s (mixDeliver u) := by
  induction hn : subSteps s generalizing s with
  | zero =>
    unfold subSteps at hn
    split at hn <;> omega
  | succ n ih =>
    by_cases hp : s.mixPos = .deliver
    · have h1 : subSteps s = 1 := by rw [subSteps, hp]
      obtain rfl : n = 0 := by omega
      exact ⟨s, hs, hw, hp, .head ((hf s hs hw).trans (execWmix_deliver hw hp)) (.refl _)⟩
    · obtain ⟨t, e, ht⟩ := hP s hs hw hp
      obtain ⟨htw, hsub⟩ := execWmix_moves hw hp e
      obtain ⟨u, hu, huw, hup, hrun⟩ := ih ht htw (by omega)
      exact ⟨u, hu, huw, hup, .head ((hf s hs hw).trans e) hrun⟩

theorem mixDeliver_deliveries (s : State) :
    deliveries (mixDeliver s).hist = deliveries s.hist ++ [(.cd, s.mem.cdout)] :=
  deliveries_append [.deliver .cd s.mem.cdout] s.hist

/-! ## O42: from every state of the invariant -/

/-- What the sub-steps before the delivery of a pass keep: the invariant, the registers of the main path and the latches,
and the deliveries. -/
structure MidPass (s u : State) : Prop where
  inv : Inv u
  cfg : u.cfg = s.cfg
  wFmt : u.wFmt = s.wFmt
  run : u.run = s.run
  sig : u.sig = s.sig
  main : u.main = s.main
  agenda : u.agenda = s.agenda
  life : u.life = s.life
  deliveries : deliveries u.hist = deliveries s.hist

theorem MidPass.refl (h : Inv s) : MidPass s s := ⟨h, rfl, rfl, rfl, rfl, rfl, rfl, rfl, rfl⟩

/-- W.MIX completes from every state of the invariant. -/
theorem Inv.execWmix_completes (h : Inv s) (hw : s.wState = .mixing) : ∃ t, execWmix s = .next t ∧ Inv t := by
  suffices hc : ∃ t, execWmix s = .next t by
    obtain ⟨t, e⟩ := hc
    have hk := execWmix_keepsInv h
    rw [e] at hk
    exact ⟨t, e, hk⟩
  cases hp : s.mixPos with
  | clear => exact ⟨_, execWmix_clear hw hp⟩
  | drive d =>
    rw [execWmix_drive hw hp]
    refine mixDrive_completes d ?_ (h.pass.2.2 (by simp [hp])) h.formats.2
    simp [h.table (by simp [h.active_of_mixing hw]), volumeTable]
  | deliver => exact ⟨_, execWmix_deliver hw hp⟩

theorem MidPass.step (h : MidPass s u) (hw : u.wState = .mixing) (hp : u.mixPos ≠ .deliver) :
    ∃ t, execWmix u = .next t ∧ MidPass s t := by
  obtain ⟨t, e, hinv⟩ := h.inv.execWmix_completes hw
  refine ⟨t, e, ?_⟩
  obtain ⟨hn, _⟩ | ⟨_, _, rfl⟩ | ⟨d, _, _, ed⟩ | ⟨_, hpos, _⟩ := execWmix_next e
  · exact absurd hw hn
  · exact { h with inv := hinv }
  · obtain ⟨hh, ehist, _, hd⟩ := mixDrive_hist ed
    have hdel : Machine.deliveries t.hist = Machine.deliveries s.hist := by
      rw [ehist, deliveries_append, hd, List.append_nil, h.deliveries]
    obtain ⟨_, _, _, _, _, _, rfl, _⟩ := mixDrive_next ed
    exact { h with inv := hinv, deliveries := hdel }
  · exact absurd hpos hp

/-- A pass from a state of the invariant, taken by `f`, delivers one block of the pass's size and format. -/
theorem Inv.pass_delivers (h : Inv s) (hf : ∀ u, MidPass s u → u.wState = .mixing → f u = execWmix u)
    (hw : s.wState = .mixing) : ∃ u, MidPass s u ∧ Runs f (subSteps s) s (Machine.mixDeliver u) ∧
      deliveries (Machine.mixDeliver u).hist = deliveries s.hist ++ [(.cd, u.mem.cdout)] ∧
      u.mem.cdout.length = cdSize s ∧ u.mem.cdout.fmt = s.wFmt := by
  obtain ⟨u, hu, _, hp, hrun⟩ := pass_runs hf (fun _ => MidPass.step) (.refl h) hw
  refine ⟨u, hu, hrun, by rw [mixDeliver_deliveries, hu.deliveries], ?_, by rw [hu.inv.formats.2, hu.wFmt]⟩
  rw [hu.inv.pass.2.2 (by simp [hp]), cdSize, hu.cfg, cdSize]

/-- Settles O42: from MIX.clear on, `P_CDROM_NUM + 2` sub-steps are left. -/
theorem everyPassDeliversOneBlock : Obligations.EveryPassDeliversOneBlock := by
  intro s h hw hp
  obtain ⟨u, _, hrun, hdel, hlen, hfmt⟩ := h.pass_delivers (fun _ _ _ => rfl) hw
  have hn : subSteps s = s.cfg.cdromNum + 2 := by rw [subSteps, hp]
  exact ⟨_, _, hn ▸ hrun.repeatWmix, rfl, hdel, hlen, hfmt⟩

/-! ## O41: a pass without drives -/

/-- What the sub-steps after MIX.clear keep while no drive plays: the place among the drives, the zeros, the answers, the
deliveries and the oracle calls. -/
structure SilentPass (s u : State) : Prop where
  place : u.mixPos ≠ .clear ∧ ∀ d, u.mixPos = .drive d → d < s.cfg.cdromNum
  cfg : u.cfg = s.cfg
  drives : u.drives = s.drives
  cdout : u.mem.cdout = Block.zeros s.wFmt (cdSize s)
  answers : u.answers = s.answers
  deliveries : deliveries u.hist = deliveries s.hist
  calls : oracleCalls u.hist = oracleCalls s.hist

theorem mixClear_silentPass (s : State) : SilentPass s (mixClear s) := by
  refine ⟨?_, rfl, rfl, rfl, rfl, rfl, rfl⟩
  obtain ⟨hf, hn⟩ | ⟨hf, _⟩ := MixPos.first_cases s.cfg <;> simp [mixClear, hf]
  exact hn

theorem SilentPass.step (hsilent : ∀ d, d < s.cfg.cdromNum → (driveAt s d).busEn = false ∨ (driveAt s d).playing = false)
    (h : SilentPass s u) (hw : u.wState = .mixing) (hp : u.mixPos ≠ .deliver) :
    ∃ t, execWmix u = .next t ∧ SilentPass s t := by
  cases hpos : u.mixPos with
  | clear => exact absurd hpos h.place.1
  | deliver => exact absurd hpos hp
  | drive d =>
    have hd : driveAt u d = driveAt s d := by rw [driveAt, h.drives, driveAt]
    obtain ⟨hh, e, hdel, hcalls⟩ := pollDrive_frame d u
    refine ⟨_, (execWmix_drive hw hpos).trans (mixDrive_silent (hd ▸ hsilent d (h.place.2 d hpos))), ?_⟩
    rw [e]
    refine { h with place := ?_, deliveries := ?_, calls := ?_ }
    · rw [h.cfg]
      obtain ⟨ha, hn⟩ | ⟨ha, _⟩ := MixPos.after_cases s.cfg d <;> simp [ha]
      exact hn
    · dsimp only
      rw [deliveries_append, hdel, List.append_nil, h.deliveries]
    · dsimp only
      rw [oracleCalls_append, hcalls, List.append_nil, h.calls]

/-- Settles O41: MIX.clear, the silent drives, and the delivery of the zeros. -/
theorem passWithoutDrivesDeliversSilence : Obligations.PassWithoutDrivesDeliversSilence := by
  intro s hw hp hsilent
  have hclear := execWmix_clear hw hp
  obtain ⟨u, hu, _, _, hrun⟩ := pass_runs (f := execWmix) (fun _ _ _ => rfl) (fun _ => SilentPass.step hsilent)
    (mixClear_silentPass s) hw
  have hn : subSteps (mixClear s) + 1 = s.cfg.cdromNum + 2 := by
    rw [← (execWmix_moves hw (by simp [hp]) hclear).2, subSteps, hp]
  refine ⟨mixDeliver u, hn ▸ (Runs.head hclear hrun).repeatWmix, rfl, ?_, hu.answers, hu.calls⟩
  rw [mixDeliver_deliveries, hu.deliveries, hu.cdout]

/-! ## O33: CDSTOP joins the worker (R172, R181) -/

theorem workerTurn_waiting (hw : s.wState = .waiting) : workerTurn s = execWwake s := by
  rw [workerTurn, hw]
  rfl

theorem workerTurn_mixing (hw : s.wState = .mixing) : workerTurn s = execWmix s := by
  rw [workerTurn, hw]
  rfl

/-- A step of the block is one of the worker while CDSTOP waits for a worker that has not exited. -/
theorem step_awaitExit {k : AfterStop} {w : Word} (ha : s.agenda = []) (hm : s.main = .awaitExit k w)
    (hw : s.wState ≠ .exited) : step s = workerTurn s :=
  step_rest_worker ha (by simp [hm]) (by simp [mainReady, hm, hw])

/-- The worker is released and CDSTOP has answered. -/
structure Joined (s t : State) : Prop where
  wState : t.wState = .absent
  cdEnable : t.cdEnable = false
  sig : t.sig = false
  startEvt : t.startEvt = false
  main : t.main = .idle
  status : t.status = .ok
  life : t.life = s.life

/-- A waiting worker that is to stop is joined in two steps: it exits and is released. -/
theorem waiting_joins {w : Word} (ha : s.agenda = []) (hm : s.main = .awaitExit .done w) (hw : s.wState = .waiting)
    (hg : s.sig = true) (hr : s.run = false) :
    ∃ t, Runs step 2 s t ∧ Joined s t ∧ deliveries t.hist = deliveries s.hist := by
  let u : State := { s with sig := false, wState := .exited, hist := .clearSig :: s.hist }
  have hexit : step s = .next u := by
    rw [step_awaitExit ha hm (by simp [hw]), workerTurn_waiting hw, execWwake_exits hw hg hr]
  have hgo : step u = .next (afterExit .done w u) := by
    rw [step_rest_ready (s := u) ha (by simp [u, hm]) (by simp [mainReady, u, hm]),
      resume_awaitExit (s := u) hm rfl]
  exact ⟨_, .head hexit (.head hgo (.refl _)), ⟨rfl, rfl, rfl, rfl, rfl, rfl, rfl⟩, rfl⟩

/-- A worker in a pass is joined after the rest of the pass, which delivers its one block. -/
theorem mixing_joins {w : Word} (h : Inv s) (ha : s.agenda = []) (hm : s.main = .awaitExit .done w)
    (hw : s.wState = .mixing) (hg : s.sig = true) (hr : s.run = false) :
    ∃ t b, Runs step (subSteps s + 2) s t ∧ Joined s t ∧ deliveries t.hist = deliveries s.hist ++ [(.cd, b)] := by
  have hf : ∀ u, MidPass s u → u.wState = .mixing → step u = execWmix u := fun u hu huw => by
    rw [step_awaitExit (hu.agenda.trans ha) (hu.main.trans hm) (by simp [huw]), workerTurn_mixing huw]
  obtain ⟨u, hu, hrun, hdel, _⟩ := h.pass_delivers hf hw
  obtain ⟨t, hjoin, ht, hdel'⟩ := waiting_joins (s := mixDeliver u) (hu.agenda.trans ha) (hu.main.trans hm) rfl
    (hu.sig.trans hg) (hu.run.trans hr)
  exact ⟨t, _, hrun.trans hjoin, { ht with life := ht.life.trans hu.life }, hdel'.trans hdel⟩

/-- Settles O33, by the worker's phase at the CDSTOP. -/
theorem stopJoinsWorker : Obligations.StopJoinsWorker := by
  intro s h hm ha hc
  obtain ⟨_, hl, hw⟩ := h.active_of_cdEnable hm hc
  let u : State :=
    { s with run := false, sig := true, main := .awaitExit .done (wordOf .cdstop), hist := .setSig :: s.hist }
  have hstop : stopBody .done (wordOf .cdstop) s = u := stopBody_waits .done _ hc
  have hu : exec .cdstop s = .next u := congrArg Host.Outcome.next hstop
  have hinv : Inv u := hstop ▸ h.stopBody hm (k := .done) (by decide) (wordOf .cdstop)
  obtain hw | hw := hw
  · obtain ⟨t, hrun, ht, hdel⟩ := waiting_joins (s := u) ha rfl hw rfl rfl
    exact ⟨u, 2, t, hu, by omega, hrun.core, ht.wState, ht.cdEnable, ht.sig, ht.startEvt, ht.main, ht.status,
      ht.life.trans hl, fun _ => hdel, fun hmix => by simp [hw] at hmix⟩
  · obtain ⟨t, b, hrun, ht, hdel⟩ := mixing_joins hinv ha rfl hw rfl rfl
    have hn : subSteps u ≤ s.cfg.cdromNum + 2 := subSteps_le u
    exact ⟨u, _, t, hu, by omega, hrun.core, ht.wState, ht.cdEnable, ht.sig, ht.startEvt, ht.main, ht.status,
      ht.life.trans hl, fun hwait => by simp [hw] at hwait, fun _ => ⟨b, hdel⟩⟩

end Sys2Proof.Machine
end

section
/-! O46, O47: the CD volume registers, which neither a flush nor a sub-step of a pass sees, and the filter slots (R214,
R215). -/

namespace Sys2Proof.Machine

variable (l r : BitVec 16) (s : State) (st : Stream)

/-! ## O46: SETCDVOL (R214) -/

/-- The state with other values in the CD volume registers (R40). -/
def State.withCdVol : State := { s with cdVolL := l, cdVolR := r }

theorem addSources_withCdVol : addSources st (s.withCdVol l r) = (addSources st s).withCdVol l r :=
  List.foldl_hom (State.withCdVol l r) fun _ _ => rfl

theorem convert_withCdVol : convert st (s.withCdVol l r) = (convert st s).withCdVol l r := by
  have hf : (s.withCdVol l r).fmt = s.fmt := rfl
  unfold convert
  dsimp only
  rw [hf]
  cases s.fmt <;> rfl

theorem cdSignal_withCdVol : cdSignal (s.withCdVol l r) = (cdSignal s).withCdVol l r := by
  have he : (s.withCdVol l r).cdEnable = s.cdEnable := rfl
  have hn : (s.withCdVol l r).countDown = s.countDown := rfl
  unfold cdSignal
  rw [he, hn]
  split_ifs <;> rfl

/-- FLUSH commutes with a change of the registers, step by step (R122). -/
theorem flush_withCdVol : flush st (s.withCdVol l r) = (flush st s).withCdVol l r := by
  have hclear : clearRaw st (s.withCdVol l r) = (clearRaw st s).withCdVol l r := rfl
  have hdeliver : ∀ u : State, deliverStream st (u.withCdVol l r) = (deliverStream st u).withCdVol l r := fun _ => rfl
  unfold flush
  dsimp only
  rw [hclear, addSources_withCdVol, convert_withCdVol, hdeliver]
  cases st with
  | effects => exact cdSignal_withCdVol ..
  | music => rfl
  | wavetable => rfl

/-- A sub-step of a pass commutes with a change of the registers: with the values of `s` itself, `passSeesOnlyItsLatches`
says that the sub-step writes none of the registers that it does not see. -/
theorem exec_wmix_withCdVol {s t : State} (e : exec .wmix s = .next t) :
    exec .wmix (s.withCdVol l r) = .next (t.withCdVol l r) := by
  have hunseen (l r : BitVec 16) : exec .wmix (s.withCdVol l r) =
      .next (t.withUnseen ⟨s.fmt, s.filt, l, r, s.pos, s.handlers⟩) :=
    passSeesOnlyItsLatches s t s.fmt s.filt l r s.pos s.handlers e
  have hkeep : t = t.withUnseen ⟨s.fmt, s.filt, s.cdVolL, s.cdVolR, s.pos, s.handlers⟩ :=
    Host.Outcome.next.inj (e.symm.trans (hunseen s.cdVolL s.cdVolR))
  rw [hunseen, hkeep]
  rfl

/-- Settles O46: the two branches of SETCDVOL, and the two datapaths, which commute with a change of the registers. -/
theorem cdVolumeIsStored : Obligations.CdVolumeIsStored := by
  refine fun s left right => ⟨fun hl => if_pos hl,
    fun hl => ⟨_, if_neg hl, rfl, rfl, rfl, rfl, rfl, rfl⟩, fun i t hi e => ?_⟩
  obtain rfl | ⟨st, rfl⟩ := hi
  · exact exec_wmix_withCdVol left right e
  · cases e
    exact congrArg Host.Outcome.next (flush_withCdVol left right s st)

/-! ## O47: SETFILT (R215) -/

variable {s}

theorem exec_setfilt_stores {k : Kind} {cb : Cb} (ctx : Ctx) (hl : s.life ≠ .uninit)
    (hfree : cb = 0 ∨ (s.filt.get k).cb = 0) : exec (.setfilt k cb ctx) s =
    .next ({ s with filt := s.filt.set k (if cb = 0 then Slot.empty else ⟨cb, ctx⟩) }.respond
      (wordOf (.setfilt k cb ctx)) .ok) := by
  by_cases hcb : cb = 0
  · subst hcb
    exact exec_setfilt_null k ctx hl
  · rw [if_neg hcb]
    exact exec_setfilt_install ctx hl hcb (hfree.resolve_left hcb)

theorem exec_setfilt_busy {k : Kind} {cb : Cb} (ctx : Ctx) (hl : s.life ≠ .uninit) (hcb : cb ≠ 0)
    (hk : (s.filt.get k).cb ≠ 0) :
    exec (.setfilt k cb ctx) s = raiseStatus (wordOf (.setfilt k cb ctx)) .filterBusy s := by
  rw [exec, execSetfilt, if_neg hl, if_neg hcb, if_neg hk]

/-- Settles O47: the branches of SETFILT; a write of one slot keeps the others. -/
theorem filterInstallsOnlyIntoEmptySlot : Obligations.FilterInstallsOnlyIntoEmptySlot := fun s k _ ctx =>
  ⟨fun hl => if_pos hl,
    fun hl hfree => ⟨_, exec_setfilt_stores ctx hl hfree, PerKind.get_set_same s.filt k _,
      fun _ hk => PerKind.get_set_ne s.filt _ hk, rfl, rfl, rfl, rfl⟩,
    fun hl hcb hk => exec_setfilt_busy ctx hl hcb hk⟩

end Sys2Proof.Machine
end

section
/-! O9, O12 to O16: which commands a `LIFE` state accepts, and what INIT, RESET, SETFMT and TEARDOWN do (R230 to
R234). -/

namespace Sys2Proof.Machine

variable {s : State}

/-! ## O9: the acceptance table (R234) -/

/-- Outside the cells "acts" a command raises `NotReady`. -/
theorem exec_refuses {i : Instr} (h : accepts s.life i = false) : exec i s = raiseStatus (wordOf i) .notReady s := by
  cases i with
  | init => exact if_neg (beq_eq_false_iff_ne.1 h)
  | reset => exact if_pos (bne_eq_false_iff_eq.1 h)
  | setfmt f => exact if_pos (bne_eq_false_iff_eq.1 h)
  | setcdvol left right => exact if_pos (bne_eq_false_iff_eq.1 h)
  | setfilt k cb ctx => exact if_pos (bne_eq_false_iff_eq.1 h)
  | regh st cb ctx => exact if_neg (beq_eq_false_iff_ne.1 h)
  | tick st => exact if_neg (beq_eq_false_iff_ne.1 h)
  | speedchg => exact if_neg (beq_eq_false_iff_ne.1 h)
  | cdcheck => exact if_neg (beq_eq_false_iff_ne.1 h)
  | cdstart => exact congrArg Host.Outcome.next (if_neg (beq_eq_false_iff_ne.1 h))
  | _ => cases h

/-- The newest event is no answer `NotReady`. -/
def NotRefused (s : State) : Prop := ∀ w, s.hist.head? ≠ some (.response w .notReady)

/-- The operation completes, and does not answer `NotReady`. -/
def Acts (o : Out) : Prop := ∃ t, o = .next t ∧ NotRefused t

theorem acts_next {t : State} (h : NotRefused t) : Acts (.next t) := ⟨t, rfl, h⟩

theorem notRefused_respond (s : State) (w : Word) {st : Status} (h : st ≠ .notReady) : NotRefused (s.respond w st) :=
  fun _ e => h (Event.response.inj (Option.some.inj e)).2

theorem acts_respond (s : State) (w : Word) {st : Status} (h : st ≠ .notReady) : Acts (.next (s.respond w st)) :=
  acts_next (notRefused_respond s w h)

theorem startBody_notRefused (w : Word) (hl : s.life = .active) : NotRefused (startBody w s) := by
  cases hc : s.cdEnable with
  | false =>
    rw [startBody_creates w hl hc]
    exact fun _ => by simp
  | true =>
    rw [startBody_existing w hl hc]
    exact notRefused_respond s w (by decide)

theorem stopBody_notRefused (k : AfterStop) (w : Word) (s : State) : NotRefused (stopBody k w s) := by
  cases hc : s.cdEnable with
  | false =>
    rw [stopBody_absent k w hc]
    cases k <;> exact notRefused_respond _ w (by decide)
  | true =>
    rw [stopBody_waits k w hc]
    exact fun _ => by simp

theorem checkBody_notRefused (w : Word) (hl : s.life = .active) : NotRefused (checkBody w s) := by
  obtain ⟨h, e⟩ := sampleBuses_shape s
  rw [checkBody, e]
  split_ifs
  · exact startBody_notRefused w hl
  · exact stopBody_notRefused .done w _
  · exact notRefused_respond _ w (by decide)

/-- RESET makes the context active before it checks the drives, so the check does not refuse. -/
theorem resetBody_notRefused (w : Word) (s : State) : NotRefused (resetBody w s) := by
  unfold resetBody
  dsimp only
  split_ifs
  · exact checkBody_notRefused w rfl
  · exact stopBody_notRefused .resetFailed w _

/-- In the cells "acts" no branch of a command raises `NotReady`. -/
theorem exec_acts {i : Instr} (hi : (encode i).isSome) (h : accepts s.life i = true) : Acts (exec i s) := by
  have hok : Status.ok ≠ .notReady := by decide
  cases i with
  | init =>
    rw [exec, execInit, if_pos (beq_iff_eq.1 h)]
    exact acts_respond _ _ hok
  | reset =>
    rw [exec, execReset, if_neg (bne_iff_ne.1 h)]
    exact acts_next (resetBody_notRefused _ s)
  | setfmt f =>
    rw [exec, execSetfmt, if_neg (bne_iff_ne.1 h)]
    split_ifs
    · exact acts_respond _ _ hok
    · exact acts_next (resetBody_notRefused _ _)
  | teardown => exact acts_next (stopBody_notRefused _ _ s)
  | regh st cb ctx =>
    rw [exec, execRegh, if_pos (beq_iff_eq.1 h)]
    split_ifs
    · exact acts_respond _ _ (by decide)
    · exact acts_respond _ _ hok
  | tick st =>
    rw [exec, execTick, if_pos (beq_iff_eq.1 h)]
    exact acts_respond _ _ hok
  | speedchg =>
    rw [exec, execSpeedchg, if_pos (beq_iff_eq.1 h)]
    exact acts_respond _ _ hok
  | setcdvol left right =>
    rw [exec, execSetcdvol, if_neg (bne_iff_ne.1 h)]
    exact acts_respond _ _ hok
  | setfilt k cb ctx =>
    rw [exec, execSetfilt, if_neg (bne_iff_ne.1 h)]
    split_ifs
    · exact acts_respond _ _ hok
    · exact acts_respond _ _ hok
    · exact acts_respond _ _ (by decide)
  | cdcheck =>
    have hl : s.life = .active := beq_iff_eq.1 h
    rw [exec, execCdcheck, if_pos hl]
    exact acts_next (checkBody_notRefused _ hl)
  | cdstart => exact acts_next (startBody_notRefused _ (beq_iff_eq.1 h))
  | cdstop => exact acts_next (stopBody_notRefused _ _ s)
  | _ => cases hi

/-- Settles O9: the two kinds of cells of the table. -/
theorem lifeDecidesAcceptance : Obligations.LifeDecidesAcceptance := by
  intro i s w hw
  refine ⟨fun h => ?_, fun h => ?_⟩
  · have hword : wordOf i = w := by rw [wordOf, hw, Option.getD_some]
    rw [exec_refuses h, hword]
    rfl
  · obtain ⟨t, e, ht⟩ := exec_acts (by simp [hw]) h
    exact ⟨t, e, ht w⟩

/-! ## O12: INIT (R230) -/

/-- The table INIT builds reads back as `Num.vol` (R210). -/
theorem read_putVoltab_volumeTable (m : Memory) (c : Params) {i : Nat} (hi : i < 256) :
    (m.putVoltab (volumeTable c)).read .voltab i = some (.f64 (Num.vol c i)) := by
  simp [Memory.read, Memory.putVoltab, volumeTable, hi]

/-- Settles O12, by the two branches of INIT. -/
theorem initCreatesContext : Obligations.InitCreatesContext := by
  refine fun s => ⟨fun hl => if_neg hl, fun hl => ⟨_, if_pos hl, rfl, rfl, rfl, fun i hi => ?_, fun st => ?_,
    PerKind.get_all Slot.empty, rfl, rfl, rfl, rfl, rfl, rfl⟩⟩
  · exact read_putVoltab_volumeTable _ _ hi
  · exact ⟨PerStream.get_all 0 st, PerStream.get_all [] st⟩

/-! ## O16: TEARDOWN (R233) -/

/-- Settles O16, by whether a worker exists. -/
theorem teardownDestroysContext : Obligations.TeardownDestroysContext := by
  refine fun s => ⟨fun hc => ⟨_, congrArg Host.Outcome.next (stopBody_absent .teardown _ hc), rfl, rfl, rfl,
    fun st => ?_, PerKind.get_all Slot.empty, rfl, rfl⟩, fun hc => ?_⟩
  · exact ⟨PerStream.get_all false st, PerStream.get_all [] st⟩
  · exact congrArg Host.Outcome.next (stopBody_waits .teardown _ hc)

/-! ## O14: RESET with no memory (R231 steps 1 and 2) -/

theorem exec_reset (hl : s.life ≠ .uninit) : exec .reset s = .next (resetBody (wordOf .reset) s) := if_neg hl

theorem resetBody_without_memory (w : Word) (ha : s.allocOk = false) :
    resetBody w s = stopBody .resetFailed w (freed s.fmt s) := if_neg (by simp [ha])

/-- Settles O14, by whether a worker exists once the streams are freed. -/
theorem failedAllocationAbortsReset : Obligations.FailedAllocationAbortsReset := by
  intro s hl ha
  rw [exec_reset hl, resetBody_without_memory _ ha]
  exact ⟨fun hc => congrArg Host.Outcome.next (stopBody_absent (s := freed s.fmt s) .resetFailed _ hc),
    fun hc => congrArg Host.Outcome.next (stopBody_waits (s := freed s.fmt s) .resetFailed _ hc)⟩

/-! ## O13: RESET with memory (R231 steps 1 to 5) -/

theorem resetBody_with_memory (w : Word) (ha : s.allocOk = true) :
    resetBody w s = checkBody w (freshStreams (freed s.fmt s)) := if_pos ha

/-- The fields the availability check can write. -/
theorem checkBody_shape (w : Word) (s : State) : ∃ st m r g e d ws mp h,
    checkBody w s = { s with status := st, main := m, run := r, sig := g, startEvt := e, cdDiv := d, wState := ws,
                             mixPos := mp, hist := h ++ s.hist } := by
  obtain ⟨h, hbuses⟩ := sampleBuses_shape s
  rw [checkBody, hbuses]
  split_ifs with hstart hstop
  · obtain ⟨_, _, _, _, _, _, _, _, es, e, _⟩ := startBody_shape w { s with hist := h ++ s.hist }
    rw [e, ← List.append_assoc]
    exact ⟨_, _, _, _, _, _, _, _, es ++ h, rfl⟩
  · rw [stopBody_waits (s := { s with hist := h ++ s.hist }) _ w hstop.2]
    exact ⟨_, _, _, _, _, _, _, _, .setSig :: h, rfl⟩
  · exact ⟨_, _, _, _, _, _, _, _, .response w .ok :: h, rfl⟩

/-- What the availability check leaves in the worker's registers, the wait and the status: it has begun a start or a
stop, or answered (R170). -/
def Checked (w : Word) (s t : State) : Prop :=
  if 0 < enabledDrives s ∧ s.cdEnable = false then
    t.wState = .starting ∧ t.run = true ∧ t.sig = false ∧ t.startEvt = false ∧ t.cdDiv = s.cfg.cdN ∧
    t.main = .awaitReady w ∧ t.status = s.status
  else if enabledDrives s = 0 ∧ s.cdEnable = true then
    t.run = false ∧ t.sig = true ∧ t.main = .awaitExit .done w ∧ t.status = s.status ∧
    t.wState = s.wState ∧ t.startEvt = s.startEvt ∧ t.cdDiv = s.cdDiv ∧ t.mixPos = s.mixPos
  else
    t.status = .ok ∧ t.main = .idle ∧ t.hist.head? = some (.response w .ok) ∧
    t.run = s.run ∧ t.sig = s.sig ∧ t.wState = s.wState ∧ t.startEvt = s.startEvt ∧ t.cdDiv = s.cdDiv ∧
    t.mixPos = s.mixPos

theorem checkBody_checked (w : Word) (hl : s.life = .active) : Checked w s (checkBody w s) := by
  obtain ⟨h, hbuses⟩ := sampleBuses_shape s
  rw [checkBody, hbuses, Checked]
  split_ifs with hstart hstop
  · rw [startBody_creates (s := { s with hist := h ++ s.hist }) w hl hstart.2]
    exact ⟨rfl, rfl, rfl, rfl, rfl, rfl, rfl⟩
  · rw [stopBody_waits (s := { s with hist := h ++ s.hist }) _ w hstop.2]
    exact ⟨rfl, rfl, rfl, rfl, rfl, rfl, rfl, rfl⟩
  · exact ⟨rfl, rfl, rfl, rfl, rfl, rfl, rfl, rfl, rfl⟩

/-- A fresh stream is at its start, has no handlers and runs its timer; its buffers hold zeros (R231 step 3). -/
theorem freshStreams_get (s : State) (st : Stream) :
    (freshStreams s).pos.get st = 0 ∧ (freshStreams s).handlers.get st = [] ∧ (freshStreams s).ten.get st = true ∧
    (freshStreams s).mem.raw.get st = List.replicate (streamSize s st) 0 ∧
    (freshStreams s).mem.out.get st = Block.zeros s.fmt (streamSize s st) := by
  cases st <;> exact ⟨rfl, rfl, rfl, rfl, rfl⟩

theorem firstDeadlines_get (s : State) (st : Stream) :
    ∃ draw, (firstDeadlines s).get st = laterBy s.now (s.latches.get st) draw := by
  cases st <;> exact ⟨_, rfl⟩

/-- The latch and the first deadline one latch from now, where that deadline fits 64 bits (R231 step 3). -/
theorem freshTimes_toNat {st : Stream}
    (h : s.cfg.rate.get st ≠ 0 ∧ s.now.toNat + s.cfg.timeHz / s.cfg.rate.get st < 2 ^ 64) :
    (s.latches.get st).toNat = s.cfg.timeHz / s.cfg.rate.get st ∧
    ((firstDeadlines s).get st).toNat = s.now.toNat + s.cfg.timeHz / s.cfg.rate.get st := by
  obtain ⟨_, elatch⟩ := latches_get s st
  obtain ⟨_, edeadline⟩ := firstDeadlines_get s st
  have hlatch : (s.latches.get st).toNat = s.cfg.timeHz / s.cfg.rate.get st := by
    rw [elatch, latchOf_toNat ⟨h.1, (Nat.le_add_left ..).trans_lt h.2⟩]
  exact ⟨hlatch, by rw [edeadline, laterBy_toNat (hlatch ▸ h.2), hlatch]⟩

/-- Settles O13: the fresh streams, and the check, which writes none of what makes them fresh. -/
theorem resetMakesFreshStreams : Obligations.ResetMakesFreshStreams := by
  intro s hl ha hfit
  have hchecked := checkBody_checked (wordOf .reset) (s := freshStreams (freed s.fmt s)) rfl
  refine ⟨_, exec_reset hl, ?_⟩
  rw [resetBody_with_memory _ ha]
  obtain ⟨_, _, _, _, _, _, _, _, _, e⟩ := checkBody_shape (wordOf .reset) (freshStreams (freed s.fmt s))
  rw [e] at hchecked ⊢
  refine ⟨rfl, fun st => ?_, PerKind.get_all Slot.empty, rfl, rfl, rfl, hchecked, fun sp i hsp => ?_, rfl⟩
  · obtain ⟨hpos, hhandlers, hten, hraw, hout⟩ := freshStreams_get (freed s.fmt s) st
    obtain ⟨hlatch, hdeadline⟩ := freshTimes_toNat (s := freed s.fmt s) (hfit st)
    exact ⟨hpos, hhandlers, hten, hlatch, hdeadline, hraw, hout⟩
  · cases sp with
    | raw st => exact absurd rfl (hsp st).1
    | out st => exact absurd rfl (hsp st).2
    | cdbuf d => rfl
    | cdout => rfl
    | voltab => rfl

/-! ## O15: SETFMT (R232) -/

/-- `v` is `u` with the word `w` in its wait and in the events after `l`. -/
def Reworded (w : Word) (l : List Event) (u v : State) : Prop :=
  ∃ es, u.hist = es ++ l ∧ v = { u with main := u.main.inCommand w, hist := es.map (Event.inCommand w) ++ l }

theorem Silent.map_inCommand {h : List Event} (hs : Silent h) (w : Word) : h.map (Event.inCommand w) = h := by
  refine (List.map_congr_left fun e he => ?_).trans (List.map_id h)
  cases e with
  | response w' st => exact absurd rfl (hs _ he w' st)
  | _ => rfl

/-- Events that are no responses may count as added. -/
theorem Reworded.of_silent {w : Word} {h l : List Event} {u v : State} (hs : Silent h)
    (r : Reworded w (h ++ l) u v) : Reworded w l u v := by
  obtain ⟨es, eu, ev⟩ := r
  refine ⟨es ++ h, by rw [eu, List.append_assoc], ?_⟩
  rw [ev, List.map_append, hs.map_inCommand, List.append_assoc]

theorem sampleBuses_silent (s : State) : ∃ h, sampleBuses s = { s with hist := h ++ s.hist } ∧ Silent h := by
  unfold sampleBuses
  refine List.foldlRecOn (motive := fun t => ∃ h, t = { s with hist := h ++ s.hist } ∧ Silent h) _ _
    ⟨[], rfl, by simp [Silent]⟩ fun t ⟨h, et, hs⟩ d _ => ?_
  rw [et]
  exact ⟨.sampledBus d _ :: h, rfl, Silent.append (a := [_]) (by simp [Silent]) hs⟩

theorem startBody_reworded (w w' : Word) (s : State) : Reworded w s.hist (startBody w' s) (startBody w s) := by
  unfold startBody
  split_ifs
  · exact ⟨[_], rfl, rfl⟩
  · exact ⟨[_, _], rfl, rfl⟩
  · exact ⟨[_], rfl, rfl⟩

theorem stopBody_reworded (k : AfterStop) (w w' : Word) (s : State) :
    Reworded w s.hist (stopBody k w' s) (stopBody k w s) := by
  unfold stopBody
  split_ifs
  · exact ⟨[_], rfl, rfl⟩
  · cases k <;> exact ⟨[_], rfl, rfl⟩

theorem checkBody_reworded (w w' : Word) (s : State) : Reworded w s.hist (checkBody w' s) (checkBody w s) := by
  obtain ⟨h, hbuses, hs⟩ := sampleBuses_silent s
  apply Reworded.of_silent hs
  rw [checkBody, checkBody, hbuses]
  split_ifs
  · exact startBody_reworded w w' { s with hist := h ++ s.hist }
  · exact stopBody_reworded .done w w' { s with hist := h ++ s.hist }
  · exact ⟨[_], rfl, rfl⟩

theorem resetBody_reworded (w w' : Word) (s : State) : Reworded w s.hist (resetBody w' s) (resetBody w s) := by
  unfold resetBody
  dsimp only
  split_ifs
  · exact checkBody_reworded w w' (freshStreams _)
  · exact stopBody_reworded .resetFailed w w' _

theorem resetBody_fmt (w : Word) (s : State) : (resetBody w s).fmt = s.fmt := by
  cases ha : s.allocOk with
  | false =>
    rw [resetBody_without_memory w ha]
    obtain ⟨_, _, _, _, _, _, _, _, _, e⟩ := stopBody_shape .resetFailed w (freed s.fmt s)
    rw [e]
    rfl
  | true =>
    rw [resetBody_with_memory w ha]
    obtain ⟨_, _, _, _, _, _, _, _, _, e⟩ := checkBody_shape w (freshStreams (freed s.fmt s))
    rw [e]
    rfl

/-- Settles O15: RESET and SETFMT share a body, in which their words stand in the same places. -/
theorem formatChangeIsAReset : Obligations.FormatChangeIsAReset := by
  refine fun s f => ⟨fun hl => if_pos hl, fun hl hf => (if_neg hl).trans (if_pos hf), fun hl hf => ?_⟩
  obtain ⟨es, eu, ev⟩ := resetBody_reworded (wordOf (.setfmt f)) (wordOf .reset) { s with fmt := f }
  have hset : exec (.setfmt f) s = .next (resetBody (wordOf (.setfmt f)) { s with fmt := f }) :=
    (if_neg hl).trans (if_neg hf)
  exact ⟨_, es, exec_reset hl, resetBody_fmt .., eu, hset.trans (congrArg Host.Outcome.next ev)⟩

end Sys2Proof.Machine
end
